-- ==== Sys2Proof/Word.lean ====
section
/-! DEFINITION. The words of the block: bytes, 32-bit bus words and 6-bit symbol values (00_scope.md R8, R10). -/

namespace Sys2Proof

/-- One buffer byte, one character of a text (00_scope.md R10). -/
abbrev Byte := BitVec 8

/-- One 32-bit bus word, register or MD5 word (20_memory.md R47, 43_md5_core.md R115). -/
abbrev Word := BitVec 32

/-- The 6-bit value of an alphabet symbol (41_codec.md R85), and an iteration exponent (10_state.md R31). -/
abbrev Sextet := BitVec 6

end Sys2Proof
end

