-- ==== Sys2Proof/Machine/Bits.lean ====
section
/-! DEFINITION. Bytes inside wider values, in the little-endian order the spec uses throughout: bus lanes
(20_memory.md R46), MD5 words (43_md5_core.md R115), digests and salts held as bit vectors with byte 0 in bits [7:0]
(42_checksum.md R108). -/

namespace Sys2Proof

/-- Byte k of a value: bits [8k+7:8k] (30_encoding.md R66). -/
def byteOf {w : Nat} (x : BitVec w) (k : Nat) : Byte := x.extractLsb' (8 * k) 8

/-- The first n bytes of a value, least significant first. -/
def leBytes {w : Nat} (n : Nat) (x : BitVec w) : List Byte := (List.range n).map (byteOf x)

/-- A byte sequence read as a number, first byte least significant. -/
def leNat : List Byte → Nat
  | [] => 0
  | b :: bs => b.toNat + 256 * leNat bs

/-- A byte sequence read as a bit vector of w bits, first byte in bits [7:0]. -/
def leVec (w : Nat) (bs : List Byte) : BitVec w := BitVec.ofNat w (leNat bs)

end Sys2Proof
end

