-- ==== Sys2Proof/Config.lean ====
section
/-! DEFINITION. What an implementation fixes (00_scope.md R7) and the one free value of the model, the
contents of the buffers after a reset (10_state.md R42). -/

namespace Sys2Proof

/-- The parameters of one instance of the block (00_scope.md R7). They are carried in State as plain data that no
step writes, so that a statement about every state is a statement about every instance. -/
structure Params where
  /-- BASE, the bus byte address of register offset 0x000 (20_memory.md R44). -/
  base : Nat
  /-- PW_BUF_LEN, the capacity of the PW buffer in bytes. -/
  pwBufLen : Nat
  /-- TEXT_BUF_LEN, the capacity of the TEXT buffer in bytes. -/
  textBufLen : Nat
  deriving DecidableEq, Repr

/-- The instance State.reset describes: PW_BUF_LEN and TEXT_BUF_LEN as 00_scope.md R7 gives them. BASE is OPEN there;
0 stands for it here. DESIGN CHOICE, unsafe (log 5). -/
def Params.spec : Params := { base := 0, pwBufLen := 256, textBufLen := 64 }

/-- The byte a buffer cell holds after a reset until it is first written: "one arbitrary byte per cell"
(10_state.md R42, 93_implementation_defined.md U5, U7). A free value: it has no body, so no claim can rest on it. The
first argument numbers the resets, the second is the cell's window offset. DESIGN CHOICE, safe (log 3). -/
opaque Config.resetByte : Nat → Nat → Byte

end Sys2Proof
end

