-- ==== Sys2Proof/Syntax.lean ====
section
/-! DEFINITION. The commands of the block, one constructor per row of spec/opcode_table.json. -/

namespace Sys2Proof

/-- The eleven commands (30_encoding.md R63). No command word carries an operand field: operands are implicit
registers and buffers (R62), so no constructor has an argument. -/
inductive Instr where
  /-- OP 0x1, symbol to value (41_codec.md R95). -/
  | sym2val
  /-- OP 0x2, value to symbol (41_codec.md R96). -/
  | val2sym
  /-- OP 0x3, encode one 3-byte group (41_codec.md R97). -/
  | encgrp
  /-- OP 0x4, decode one 4-symbol group (41_codec.md R98). -/
  | decgrp
  /-- OP 0x5, encode the digest into 22 symbols (41_codec.md R99). -/
  | encdig
  /-- OP 0x6, decode a digest field (41_codec.md R100). -/
  | decdig
  /-- OP 0x7, the salted iterated MD5 digest (42_checksum.md R110). -/
  | chksum
  /-- OP 0x8, parse a record (44_record.md R133). -/
  | parse
  /-- OP 0x9, serialize fields into a record (44_record.md R134). -/
  | format
  /-- OP 0xA, compute the checksum and serialize the record (44_record.md R135). -/
  | generate
  /-- OP 0xB, parse a record and check a password against it (44_record.md R136). -/
  | verify
  deriving DecidableEq, Repr

end Sys2Proof
end

