-- ==== Sys2Proof/WellFormed.lean ====
section
/-! DEFINITION. What is well formed: instance parameters (00_scope.md R7), command words (30_encoding.md R61, R67),
and instructions, which have no field that could be ill formed. -/

namespace Sys2Proof

/-- BASE is a multiple of 512 (20_memory.md R44). -/
abbrev Params.baseAligned (p : Params) : Prop := p.base % 512 = 0

/-- PW_BUF_LEN is a multiple of 4 in 4..256 (00_scope.md R7). -/
abbrev Params.pwBufLenLegal (p : Params) : Prop := 4 ≤ p.pwBufLen ∧ p.pwBufLen ≤ 256 ∧ p.pwBufLen % 4 = 0

/-- TEXT_BUF_LEN is a multiple of 4 in 36..64 (00_scope.md R7). -/
abbrev Params.textBufLenLegal (p : Params) : Prop :=
  36 ≤ p.textBufLen ∧ p.textBufLen ≤ 64 ∧ p.textBufLen % 4 = 0

/-- The legal parameters of an instance (00_scope.md R7). -/
abbrev Params.legal (p : Params) : Prop := p.baseAligned ∧ p.pwBufLenLegal ∧ p.textBufLenLegal

/-- The reserved bits [31:4] of a command word are 0 (30_encoding.md R61). -/
abbrev reservedBitsZero (w : Word) : Prop := w.extractLsb' 4 28 = 0#28

/-- The opcode field is one of the eleven assigned (30_encoding.md R63, R67). -/
abbrev opcodeAssigned (w : Word) : Prop := 1 ≤ (w.extractLsb' 0 4).toNat ∧ (w.extractLsb' 0 4).toNat ≤ 11

/-- A legal command word (30_encoding.md R67: every other word is illegal). -/
abbrev legalCommandWord (w : Word) : Prop := reservedBitsZero w ∧ opcodeAssigned w

/-- Every instruction is well formed: none has an operand field (30_encoding.md R62). -/
def Instr.wellFormed (_ : Instr) : Bool := true

end Sys2Proof
end

