-- ==== Sys2Proof/Decode.lean ====
section
/-! DEFINITION. The command decoder (30_encoding.md R61, R63, R67), total and rejecting by name, and the encoder. -/

namespace Sys2Proof

/-- Why a word, or a byte sequence, is no command. -/
inductive DecodeReject where
  /-- Not the four bytes of one 32-bit word (30_encoding.md R61: a command is always one word). -/
  | notOneWord
  /-- Bits [31:4] are not all 0 (30_encoding.md R67). -/
  | reservedBits
  /-- OP is 0x0 or 0xC to 0xF (30_encoding.md R67). -/
  | illegalOpcode (op : BitVec 4)
  deriving DecidableEq, Repr

/-- The opcode map (30_encoding.md R63). -/
def opcodeMap (op : BitVec 4) : Except DecodeReject Instr :=
  match op.toNat with
  | 0x1 => .ok .sym2val
  | 0x2 => .ok .val2sym
  | 0x3 => .ok .encgrp
  | 0x4 => .ok .decgrp
  | 0x5 => .ok .encdig
  | 0x6 => .ok .decdig
  | 0x7 => .ok .chksum
  | 0x8 => .ok .parse
  | 0x9 => .ok .format
  | 0xA => .ok .generate
  | 0xB => .ok .verify
  | _ => .error (.illegalOpcode op)

/-- Decoding of a command word: all 32 bits are decoded (30_encoding.md R61, R63, R67). -/
def decode (w : Word) : Except DecodeReject Instr :=
  if w.extractLsb' 4 28 ≠ 0#28 then .error .reservedBits else opcodeMap (w.extractLsb' 0 4)

/-- Decoding of a byte sequence: exactly one word, in the bus's little-endian lanes (20_memory.md R46). -/
def decodeBytes (bs : List Byte) : Except DecodeReject Instr :=
  if bs.length = 4 then decode (leVec 32 bs) else .error .notOneWord

/-- The command word of an instruction: `match` of its row (30_encoding.md R63). -/
def encode : Instr → Word
  | .sym2val => 0x00000001#32
  | .val2sym => 0x00000002#32
  | .encgrp => 0x00000003#32
  | .decgrp => 0x00000004#32
  | .encdig => 0x00000005#32
  | .decdig => 0x00000006#32
  | .chksum => 0x00000007#32
  | .parse => 0x00000008#32
  | .format => 0x00000009#32
  | .generate => 0x0000000A#32
  | .verify => 0x0000000B#32

/-- The command word whose low nbits bits are those of w and whose other bits are 0. -/
def tableWord (nbits w : Nat) : Word := BitVec.ofNat 32 (w % 2 ^ nbits)

/-- The instruction the decoder reads from the nbits-bit word w, its bytes laid out in the bus's lanes. -/
def decodeTableWord (nbits w : Nat) : Option Instr :=
  match decodeBytes (leBytes 4 (tableWord nbits w)) with
  | .ok i => some i
  | .error _ => none

end Sys2Proof
end

