-- ==== Sys2Proof/Machine/Map.lean ====
section
/-! DEFINITION. The register window (20_memory.md R44, R45): what each word offset selects. -/

namespace Sys2Proof.Machine

/-- First offset of the SALT buffer (10_state.md R35). -/
@[simp] abbrev saltBase : Nat := 0x040

/-- First offset of the DIGEST buffer (10_state.md R35). -/
@[simp] abbrev digestBase : Nat := 0x050

/-- First offset of the TEXT buffer (10_state.md R35). -/
@[simp] abbrev textBase : Nat := 0x080

/-- First offset of the PW buffer (10_state.md R35). -/
@[simp] abbrev pwBase : Nat := 0x100

/-- The four byte buffers (10_state.md R35). -/
inductive Buffer where
  | salt
  | digest
  | text
  | pw
  deriving DecidableEq, Repr

/-- The first offset of a buffer (10_state.md R35). -/
def Buffer.base : Buffer → Nat
  | .salt => saltBase
  | .digest => digestBase
  | .text => textBase
  | .pw => pwBase

/-- What a mapped word offset selects (20_memory.md R45). -/
inductive Target where
  | id
  | params
  | ctrl
  | cmd
  | status
  | arg
  | result
  | exp
  | pwlen
  | textlen
  | iterLo
  | iterHi
  /-- The buffer word whose first byte is at this offset. -/
  | cells (off : Nat)
  deriving DecidableEq, Repr

/-- An offset inside one of the four buffers (10_state.md R35, 20_memory.md R45). -/
def inBuffer (p : Params) (a : Nat) : Bool :=
  (decide (saltBase ≤ a) && decide (a < saltBase + 8))
    || (decide (digestBase ≤ a) && decide (a < digestBase + 16))
    || (decide (textBase ≤ a) && decide (a < textBase + p.textBufLen))
    || (decide (pwBase ≤ a) && decide (a < pwBase + p.pwBufLen))

/-- The register map: what a word-aligned offset selects, or nothing where it is unmapped (20_memory.md R45). -/
def targetOf (p : Params) (off : Nat) : Option Target :=
  match off with
  | 0x000 => some .id
  | 0x004 => some .params
  | 0x008 => some .ctrl
  | 0x00C => some .cmd
  | 0x010 => some .status
  | 0x014 => some .arg
  | 0x018 => some .result
  | 0x01C => some .exp
  | 0x020 => some .pwlen
  | 0x024 => some .textlen
  | 0x028 => some .iterLo
  | 0x02C => some .iterHi
  | off => if inBuffer p off then some (.cells off) else none

/-- The window offset the block decodes from a bus address: bits [8:0] (20_memory.md R44). -/
def windowOffset (addr : Nat) : Nat := addr % 512

end Sys2Proof.Machine
end

