-- ==== Sys2Proof/Machine/Notation.lean ====
section
/-! DEFINITION. What the environment can do to the block, as plain data: bus transactions (20_memory.md R47), the host
program notation (30_encoding.md R68), and the turns that say which agent moves next (40_command_protocol.md R75). -/

namespace Sys2Proof.Machine

/-- The width of a host transaction; only 32 bits is answered (20_memory.md R47). -/
inductive Width where
  | byte
  | half
  | word
  deriving DecidableEq, Repr

/-- What a transaction asks for. -/
inductive Access where
  | read
  | write (data : Word)
  deriving DecidableEq, Repr

/-- One host bus transaction as it reaches the block's port (20_memory.md R47). The address is a platform bus address;
the platform's interconnect has decoded its bits above 8 (R44; log 15). -/
structure Txn where
  addr : Nat
  width : Width
  access : Access
  deriving DecidableEq, Repr

/-- The port's answer to a transaction: read data, or the error response (10_state.md R14, log 2). -/
inductive Response where
  /-- No transaction has been answered yet. -/
  | none
  /-- The data of a read. -/
  | data (w : Word)
  /-- A write was answered without error. -/
  | ack
  /-- The bus-error response (20_memory.md R47). -/
  | busError
  deriving DecidableEq, Repr

/-- A `value` of a host program line (30_encoding.md R68). Names are numbered (log 9). -/
inductive HostValue where
  /-- A 32-bit word. -/
  | lit (w : Word)
  /-- A name bound by an earlier RD, standing for the word read. -/
  | name (n : Nat)
  /-- `0x0000_0001 | (IRQ_EN << 1)`, the value of the pseudo-instruction ABORT: IRQ_EN as CTRL holds it when the line
  runs (log 9). -/
  | keepIrqEn
  deriving DecidableEq, Repr

/-- One line of a host program (30_encoding.md R68). Labels are numbered (log 9). -/
inductive HostLine where
  /-- `WR off, value`. -/
  | wr (off : Nat) (v : HostValue)
  /-- `RD off -> name`. -/
  | rd (off : Nat) (n : Nat)
  /-- `POLL off, mask, value`. -/
  | poll (off : Nat) (mask : Word) (value : HostValue)
  /-- `label:`. -/
  | label (l : Nat)
  /-- `BNE name, mask, value, label`. -/
  | bne (n : Nat) (mask : Word) (value : HostValue) (l : Nat)
  deriving DecidableEq, Repr

/-- The host agent: its program, its place in it, and its variables ("host-side variables, not block state",
30_encoding.md R68). -/
structure HostAgent where
  prog : List HostLine
  place : Nat
  vars : List (Nat × Word)
  deriving DecidableEq, Repr

/-- One turn of the interleaving (20_memory.md R55, 40_command_protocol.md R75, 70_reset_and_hazards.md R160; log 1). -/
inductive Turn where
  /-- A bus transaction of any master. -/
  | bus (t : Txn)
  /-- The next line of the host program. -/
  | host
  /-- The sequencer's enabled micro-step, if there is one. -/
  | sequencer
  /-- `rst_n` goes low. -/
  | assertReset
  /-- `rst_n` goes high. -/
  | releaseReset
  deriving DecidableEq, Repr

end Sys2Proof.Machine
end

