-- ==== Sys2Proof/Machine/State.lean ====
section
/-! DEFINITION. The state of the block and its environment as plain data, and the state right after reset
(10_state.md, 70_reset_and_hazards.md R160). -/

namespace Sys2Proof.Machine

/-- The sequencer phase (10_state.md R36). -/
inductive Phase where
  | idle
  | setup
  | chain
  deriving DecidableEq, Repr

/-- The completion codes 0 to 10 (60_exceptions.md R145). The reserved codes 11 to 15 are never produced (R144). -/
inductive Code where
  | none
  | oldFormat
  | invalidIdentifier
  | invalidIterationCount
  | decodeFailure
  | malformedDigest
  | verificationFailure
  | invalidCharacter
  | illegalCommand
  | badOperand
  | aborted
  deriving DecidableEq, Repr

/-- The four byte buffers (10_state.md R35) as cells keyed by window offset: strictly rising offsets, one entry for
each byte written since the last reset. An unlisted cell holds the reset parameter's byte (R42; log 3, log 13). -/
abbrev Memory := List Host.Cell

/-- The canonical form: offsets strictly rising. -/
abbrev Memory.wf (m : Memory) : Prop := m.Pairwise (fun x y => x.1 < y.1)

/-- Why the machine can stop. No command of the block stops it. -/
inductive Fault where
  /-- The sequencer is in phase CHAIN while OPL holds no hash command, for which 42_checksum.md R107 gives no `finish`.
  Raised by the micro-step; no run reaches it. Safe (log 8). -/
  | chainWithoutHashCommand
  /-- A host program uses a name no earlier RD bound (30_encoding.md R68). Raised by the host agent. Safe (log 9). -/
  | hostNameUnbound (n : Nat)
  /-- A host program branches to a label it does not have (30_encoding.md R68). Raised by the host agent. Safe
  (log 9). -/
  | hostLabelMissing (l : Nat)
  deriving DecidableEq, Repr

/-- Why an instruction has no meaning. -/
inductive Refusal where
  /-- The instruction has no meaning in the model yet. Raised by exec alone, and by none of its arms now. Safe. -/
  | notModelled (mnemonic : String)
  deriving DecidableEq, Repr

/-- Everything the spec gives the machine (10_state.md), and the environment's plain data. -/
structure State where
  /-- The instance's parameters (00_scope.md R7); no step writes them (log 5). -/
  params : Params
  /-- How many resets have been released; selects the reset parameter of the buffers (log 3). -/
  epoch : Nat
  /-- `rst_n` is low (70_reset_and_hazards.md R160). -/
  inReset : Bool
  /-- CTRL.IRQ_EN (10_state.md R17). -/
  irqEn : Bool
  /-- STATUS.DONE (10_state.md R21). -/
  done : Bool
  /-- STATUS.MATCH (10_state.md R23). -/
  verMatch : Bool
  /-- STATUS.NONCANON (10_state.md R24). -/
  noncanon : Bool
  /-- STATUS.CMD_OVR (10_state.md R25). -/
  cmdOvr : Bool
  /-- STATUS.WR_IGN (10_state.md R26). -/
  wrIgn : Bool
  /-- STATUS.ERRCODE (10_state.md R27). -/
  errcode : Code
  /-- STATUS.LASTOP (10_state.md R28). -/
  lastop : BitVec 4
  /-- ARG (10_state.md R29). -/
  arg : Word
  /-- RESULT (10_state.md R30). -/
  result : Word
  /-- EXP.E (10_state.md R31). -/
  exp : Sextet
  /-- PWLEN.LEN (10_state.md R32). -/
  pwlen : BitVec 16
  /-- TEXTLEN.LEN (10_state.md R33). -/
  textlen : BitVec 8
  /-- ITER (10_state.md R34). -/
  iter : BitVec 64
  /-- The buffers SALT, DIGEST, TEXT and PW (10_state.md R35). -/
  mem : Memory
  /-- The sequencer phase (10_state.md R36). -/
  phase : Phase
  /-- OPL, the accepted command word (10_state.md R37). -/
  opl : Word
  /-- H, the chaining register; byte i is bits [8i+7:8i] (10_state.md R38; log 14). -/
  h : BitVec 128
  /-- PE, the exponent of the record VERIFY parsed (10_state.md R39). -/
  pe : Sextet
  /-- PS, its salt; byte i is bits [8i+7:8i] (10_state.md R39; log 14). -/
  ps : BitVec 64
  /-- PD, its digest; byte i is bits [8i+7:8i] (10_state.md R39; log 14). -/
  pd : BitVec 128
  /-- PNC, its non-canonical indication (10_state.md R39). -/
  pnc : Bool
  /-- The port's answer to the last transaction (10_state.md R14; log 2). -/
  port : Response
  /-- The turns still to come (log 1). -/
  inputs : List Turn
  /-- The host agent (10_state.md R13; log 9). -/
  host : HostAgent
  deriving DecidableEq, Repr

/-- The state right after the release of reset number n of an instance with parameters p (10_state.md R42). The hidden
registers OPL, H, PE, PS, PD and PNC are unspecified there and never read before being written; 0 stands for them.
DESIGN CHOICE, unsafe (log 4). -/
def State.resetWith (p : Params) (n : Nat) : State where
  params := p
  epoch := n
  inReset := false
  irqEn := false
  done := false
  verMatch := false
  noncanon := false
  cmdOvr := false
  wrIgn := false
  errcode := .none
  lastop := 0#4
  arg := 0#32
  result := 0#32
  exp := 0#6
  pwlen := 0#16
  textlen := 0#8
  iter := 0#64
  mem := []
  phase := .idle
  opl := 0#32
  h := 0#128
  pe := 0#6
  ps := 0#64
  pd := 0#128
  pnc := false
  port := .none
  inputs := []
  host := { prog := [], place := 0, vars := [] }

/-- The machine right after reset, for the spec's own parameters (10_state.md R42). -/
def State.reset : State := State.resetWith Params.spec 0

end Sys2Proof.Machine
end

