-- ==== Sys2Proof/Machine/Ops.lean ====
section
/-! DEFINITION. The named operations over the buffers and the command protocol: reading and writing buffer bytes,
acceptance (40_command_protocol.md R73), completion (R77), abort (R80) and reset (70_reset_and_hazards.md R160). -/

namespace Sys2Proof.Machine

/-- The byte last written to a cell, or nothing if none was since the reset. -/
def Memory.lookup : Memory → Nat → Option Byte
  | [], _ => none
  | c :: m, a => if a = c.1 then some c.2 else Memory.lookup m a

/-- Write one cell, keeping offsets strictly rising. -/
def Memory.store : Memory → Nat → Byte → Memory
  | [], a, b => [(a, b)]
  | c :: m, a, b =>
    if a < c.1 then (a, b) :: c :: m
    else if a = c.1 then (a, b) :: m
    else c :: Memory.store m a b

/-- Write consecutive cells, the first byte at offset a. -/
def Memory.storeBytes : Memory → Nat → List Byte → Memory
  | m, _, [] => m
  | m, a, b :: bs => Memory.storeBytes (Memory.store m a b) (a + 1) bs

/-- The byte a buffer cell holds: the one last written, else the reset parameter's (10_state.md R42; log 3). -/
def State.byteAt (s : State) (a : Nat) : Byte := (s.mem.lookup a).getD (Config.resetByte s.epoch a)

/-- The n bytes from offset a on. -/
def State.bytesAt (s : State) (a n : Nat) : List Byte := (List.range n).map (fun k => s.byteAt (a + k))

/-- Write a byte sequence into a buffer from offset a on. -/
def State.putBytes (s : State) (a : Nat) (bs : List Byte) : State := { s with mem := s.mem.storeBytes a bs }

/-- STATUS.BUSY: the phase is not IDLE (10_state.md R20, R36). -/
def State.busy (s : State) : Bool :=
  match s.phase with
  | .idle => false
  | .setup => true
  | .chain => true

/-- Acceptance of a command word (40_command_protocol.md R73). -/
def accept (w : Word) (s : State) : State :=
  { s with
    opl := w
    lastop := w.extractLsb' 0 4
    done := false
    errcode := .none
    verMatch := false
    noncanon := false
    phase := .setup }

/-- Completion with a code (40_command_protocol.md R77, 60_exceptions.md R152). A command's commit set is written into
the state this is applied to, on the paths on which R77 commits it (code 0, and code 6 of VERIFY). -/
def complete (code : Code) (s : State) : State :=
  { s with errcode := code, phase := .idle, done := true }

/-- What an abort does to a running command; nothing of its commit set is written (40_command_protocol.md R80). -/
def abort (s : State) : State :=
  { s with errcode := .aborted, phase := .idle, done := true }

/-- The acknowledgement of a completion: DONE, and with it `irq`, is cleared and ERRCODE stays
(60_exceptions.md R153, 10_state.md R27). -/
def acknowledge (s : State) : State := { s with done := false }

/-- The rising edge of `rst_n`: the block takes its reset values in one step, the buffers hold the next reset
parameter, and the environment goes on (70_reset_and_hazards.md R160, R161). -/
def releaseReset (s : State) : State :=
  { State.resetWith s.params (s.epoch + 1) with port := s.port, inputs := s.inputs, host := s.host }

/-- `rst_n` goes low: from here on every transaction gets the bus-error response and no micro-step is taken
(70_reset_and_hazards.md R160). What the registers hold until the release cannot be observed (log 11). -/
def assertReset (s : State) : State := { s with inReset := true }

end Sys2Proof.Machine
end

