-- ==== Sys2Proof/Machine/Flags.lean ====
section
/-! DEFINITION. STATUS and CTRL: how their bits are read and what a host write does to them (10_state.md R17 to R28),
and the interrupt line (R40). -/

namespace Sys2Proof.Machine

/-- The number of a completion code (60_exceptions.md R145). -/
def Code.bits : Code → BitVec 4
  | .none => 0#4
  | .oldFormat => 1#4
  | .invalidIdentifier => 2#4
  | .invalidIterationCount => 3#4
  | .decodeFailure => 4#4
  | .malformedDigest => 5#4
  | .verificationFailure => 6#4
  | .invalidCharacter => 7#4
  | .illegalCommand => 8#4
  | .badOperand => 9#4
  | .aborted => 10#4

/-- STATUS.ERR: ERRCODE != 0 (10_state.md R22). -/
def State.err (s : State) : Bool := decide (s.errcode.bits ≠ 0#4)

/-- The STATUS word, reserved bits 0 (10_state.md R19). -/
def State.statusWord (s : State) : Word :=
  0#16 ++ s.lastop ++ s.errcode.bits ++ 0#1
    ++ BitVec.ofBool s.wrIgn ++ BitVec.ofBool s.cmdOvr
    ++ BitVec.ofBool s.noncanon ++ BitVec.ofBool s.verMatch ++ BitVec.ofBool s.err
    ++ BitVec.ofBool s.done ++ BitVec.ofBool s.busy

/-- A STATUS write: DONE, CMD_OVR and WR_IGN are cleared by a 1 in bits 1, 5 and 6; nothing else changes
(10_state.md R19, R25, R26, R27). Clearing DONE is the acknowledgement of a completion (60_exceptions.md R153). -/
def writeStatus (v : Word) (s : State) : State :=
  let s1 := if v.getLsbD 1 then acknowledge s else s
  { s1 with
    cmdOvr := s.cmdOvr && !v.getLsbD 5
    wrIgn := s.wrIgn && !v.getLsbD 6 }

/-- The CTRL word: ABORT always reads 0 (10_state.md R17). -/
def State.ctrlWord (s : State) : Word := 0#30 ++ BitVec.ofBool s.irqEn ++ 0#1

/-- A CTRL write: IRQ_EN takes bit 1, and bit 0 aborts a running command (10_state.md R17, 40_command_protocol.md R80). -/
def writeCtrl (v : Word) (s : State) : State :=
  let s1 := { s with irqEn := v.getLsbD 1 }
  if v.getLsbD 0 && s.busy then abort s1 else s1

/-- The interrupt line: DONE & IRQ_EN, and 0 during reset (10_state.md R40, 60_exceptions.md R151,
70_reset_and_hazards.md R160). -/
def State.irq (s : State) : Bool := s.done && s.irqEn && !s.inReset

end Sys2Proof.Machine
end

