-- ==== Sys2Proof/Machine/Bus.lean ====
section
/-! DEFINITION. Host bus transactions (20_memory.md R45 to R52). -/

namespace Sys2Proof.Machine

/-- What ID reads (10_state.md R15). -/
def idWord : Word := 0x50485041#32

/-- What PARAMS reads: REV 1, TEXT_BUF_LEN, PW_BUF_LEN (10_state.md R16). -/
def paramsWord (p : Params) : Word := 0x01#8 ++ BitVec.ofNat 8 p.textBufLen ++ BitVec.ofNat 16 p.pwBufLen

/-- The word a read of a mapped target returns: committed values, the live STATUS and ITER, buffer words in
little-endian lanes (20_memory.md R46, R52). -/
def readTarget (s : State) : Target → Word
  | .id => idWord
  | .params => paramsWord s.params
  | .ctrl => s.ctrlWord
  | .cmd => 0#32
  | .status => s.statusWord
  | .arg => s.arg
  | .result => s.result
  | .exp => s.exp.setWidth 32
  | .pwlen => s.pwlen.setWidth 32
  | .textlen => s.textlen.setWidth 32
  | .iterLo => s.iter.extractLsb' 0 32
  | .iterHi => s.iter.extractLsb' 32 32
  | .cells a => leVec 32 (s.bytesAt a 4)

/-- An operand write: dropped while busy, when it only sets WR_IGN (20_memory.md R51). -/
def writeOperand (write : State → State) (s : State) : State :=
  if s.busy then { s with wrIgn := true } else write s

/-- A CMD write: acceptance while idle, dropped with CMD_OVR while busy (40_command_protocol.md R73, R74). A drop leaves
DONE at the 0 the running command's acceptance gave it, although the last sentence of 70_reset_and_hazards.md R167 calls
the previous DONE "still set" then. DESIGN CHOICE, unsafe (log 16). -/
def writeCmd (v : Word) (s : State) : State :=
  if s.busy then { s with cmdOvr := true } else accept v s

/-- What a write to a mapped target does; read-only registers ignore it (20_memory.md R50, R51, 10_state.md R17, R19,
R29, R31 to R33). -/
def writeTarget (v : Word) (s : State) : Target → State
  | .id => s
  | .params => s
  | .ctrl => writeCtrl v s
  | .cmd => writeCmd v s
  | .status => writeStatus v s
  | .arg => writeOperand (fun s => { s with arg := v }) s
  | .result => s
  | .exp => writeOperand (fun s => { s with exp := v.extractLsb' 0 6 }) s
  | .pwlen => writeOperand (fun s => { s with pwlen := v.extractLsb' 0 16 }) s
  | .textlen => writeOperand (fun s => { s with textlen := v.extractLsb' 0 8 }) s
  | .iterLo => s
  | .iterHi => s
  | .cells a => writeOperand (fun s => s.putBytes a (leBytes 4 v)) s

/-- The target of a transaction, or nothing where it gets the bus-error response: during reset, narrower than 32 bits,
misaligned, or unmapped (20_memory.md R47, 70_reset_and_hazards.md R160). -/
def txnTarget (t : Txn) (s : State) : Option Target :=
  if s.inReset then none
  else match t.width with
    | .byte => none
    | .half => none
    | .word =>
      if windowOffset t.addr % 4 = 0 then targetOf s.params (windowOffset t.addr) else none

/-- One host transaction, atomic (20_memory.md R48). The bus-error response changes nothing but the port's answer
(R47); a read changes nothing but that either (R49). -/
def transact (t : Txn) (s : State) : State :=
  match txnTarget t s with
  | none => { s with port := .busError }
  | some g =>
    match t.access with
    | .read => { s with port := .data (readTarget s g) }
    | .write v => { writeTarget v s g with port := .ack }

/-- The word the host sees in an answer: a read that gets the bus-error response returns 0 (20_memory.md R47). -/
def Response.value : Response → Word
  | .data w => w
  | .none => 0#32
  | .ack => 0#32
  | .busError => 0#32

end Sys2Proof.Machine
end

