-- ==== Sys2Proof/Machine/HostProgram.lean ====
section
/-! DEFINITION. The host agent running a program in the notation of 30_encoding.md R68 (log 9), and the expansions of
the pseudo-instructions. -/

namespace Sys2Proof.Machine

/-- The word a host variable holds, if an earlier RD bound it. -/
def lookupVar : List (Nat × Word) → Nat → Option Word
  | [], _ => none
  | b :: bs, n => if n = b.1 then some b.2 else lookupVar bs n

/-- Bind a host variable, replacing what it held. -/
def bindVar (vars : List (Nat × Word)) (n : Nat) (w : Word) : List (Nat × Word) :=
  (n, w) :: vars.filter (fun b => b.1 != n)

/-- The line number of a label. -/
def labelPlace : List HostLine → Nat → Option Nat
  | [], _ => none
  | line :: prog, l => if line = .label l then some 0 else (labelPlace prog l).map (· + 1)

/-- `MemWrite(BASE+off, 4, v)` (00_scope.md R9). -/
def wordWrite (s : State) (off : Nat) (v : Word) : Txn :=
  { addr := s.params.base + off, width := .word, access := .write v }

/-- `MemRead(BASE+off, 4)` (00_scope.md R9). -/
def wordRead (s : State) (off : Nat) : Txn :=
  { addr := s.params.base + off, width := .word, access := .read }

/-- The host goes to a line. -/
def hostAt (place : Nat) (s : State) : State := { s with host := { s.host with place := place } }

/-- The host binds the word its last read returned. -/
def hostBind (n : Nat) (s : State) : State :=
  { s with host := { s.host with vars := bindVar s.host.vars n s.port.value } }

/-- The word a `value` stands for, or the name it uses that no earlier RD bound (30_encoding.md R68). -/
def hostValue (v : HostValue) (s : State) : Except Nat Word :=
  match v with
  | .lit w => .ok w
  | .name n =>
    match lookupVar s.host.vars n with
    | none => .error n
    | some w => .ok w
  | .keepIrqEn => .ok (0x00000001#32 ||| s.ctrlWord)

/-- Go on with the word a `value` stands for; an unbound name stops the host (log 9). -/
def withValue (v : HostValue) (s : State) (k : Word → Host.Outcome State Fault Refusal) :
    Host.Outcome State Fault Refusal :=
  match hostValue v s with
  | .error n => .fault (.hostNameUnbound n)
  | .ok w => k w

/-- One line of the host program: at most one transaction, or a host-side branch (30_encoding.md R68). -/
def hostLine (line : HostLine) (s : State) : Host.Outcome State Fault Refusal :=
  let next := s.host.place + 1
  match line with
  | .wr off v => withValue v s fun w => .next (hostAt next (transact (wordWrite s off w) s))
  | .rd off n => .next (hostAt next (hostBind n (transact (wordRead s off) s)))
  | .poll off mask v =>
    withValue v s fun w =>
      let s1 := transact (wordRead s off) s
      .next (if s1.port.value &&& mask = w then hostAt next s1 else s1)
  | .label _ => .next (hostAt next s)
  | .bne n mask v l =>
    withValue (.name n) s fun x =>
      withValue v s fun w =>
        if x &&& mask = w then .next (hostAt next s)
        else match labelPlace s.host.prog l with
          | none => .fault (.hostLabelMissing l)
          | some k => .next (hostAt k s)

/-- The host's turn: the next line of its program, or nothing when the program has ended (40_command_protocol.md R84). -/
def hostTurn (s : State) : Host.Outcome State Fault Refusal :=
  match s.host.prog[s.host.place]? with
  | none => .next s
  | some line => hostLine line s

/-- `CMD <mnemonic>` (30_encoding.md R68). -/
def hostCmd (i : Instr) : List HostLine := [.wr 0x00C (.lit (encode i))]

/-- `WAITDONE`: BUSY = 0 and DONE = 1 (30_encoding.md R68). -/
def hostWaitDone : List HostLine := [.poll 0x010 0x00000003#32 (.lit 0x00000002#32)]

/-- The WR lines that store bytes from an offset on: one per 4 bytes, little-endian (20_memory.md R46), the last word
padded by 0x00 bytes (30_encoding.md R68). -/
def hostStores : Nat → List Byte → List HostLine
  | _, [] => []
  | off, [b0] => [.wr off (.lit (leVec 32 [b0, 0x00#8, 0x00#8, 0x00#8]))]
  | off, [b0, b1] => [.wr off (.lit (leVec 32 [b0, b1, 0x00#8, 0x00#8]))]
  | off, [b0, b1, b2] => [.wr off (.lit (leVec 32 [b0, b1, b2, 0x00#8]))]
  | off, b0 :: b1 :: b2 :: b3 :: bs => .wr off (.lit (leVec 32 [b0, b1, b2, b3])) :: hostStores (off + 4) bs

/-- `LOAD <buf>, "<bytes>"`, from the buffer's first offset on (30_encoding.md R68). -/
def hostLoad (buf : Buffer) (bytes : List Byte) : List HostLine := hostStores buf.base bytes

/-- `ABORT`, keeping IRQ_EN as it was (30_encoding.md R68). -/
def hostAbort : List HostLine := [.wr 0x008 .keepIrqEn]

end Sys2Proof.Machine
end

