-- ==== Sys2Proof/Machine/Codec.lean ====
section
/-! DEFINITION. The alphabet codec as pure functions (41_codec.md §1 to §3, 30_encoding.md R69, R71). -/

namespace Sys2Proof.Machine

/-- `ALPHA[v]`, the value-to-symbol map in its arithmetic form (41_codec.md R85). -/
def alpha (v : Sextet) : Byte :=
  if v.toNat ≤ 11 then v.setWidth 8 + 0x2E#8
  else if v.toNat ≤ 37 then v.setWidth 8 + 0x35#8
  else v.setWidth 8 + 0x3B#8

/-- `VAL(c)`, the symbol-to-value map; `none` is the spec's ⊥ (41_codec.md R86). -/
def symVal (c : Byte) : Option Sextet :=
  if 0x2E ≤ c.toNat ∧ c.toNat ≤ 0x39 then some ((c - 0x2E#8).setWidth 6)
  else if 0x41 ≤ c.toNat ∧ c.toNat ≤ 0x5A then some ((c - 0x35#8).setWidth 6)
  else if 0x61 ≤ c.toNat ∧ c.toNat ≤ 0x7A then some ((c - 0x3B#8).setWidth 6)
  else none

/-- The four symbols of three bytes, in output order (41_codec.md R87). -/
def encodeGroup (b0 b1 b2 : Byte) : Byte × Byte × Byte × Byte :=
  let w : BitVec 24 := b2 ++ b1 ++ b0
  (alpha (w.extractLsb' 0 6), alpha (w.extractLsb' 6 6), alpha (w.extractLsb' 12 6), alpha (w.extractLsb' 18 6))

/-- The three bytes of four symbols in text order, or nothing if one is not in the alphabet (41_codec.md R88). -/
def decodeGroup (s0 s1 s2 s3 : Byte) : Option (Byte × Byte × Byte) :=
  match symVal s0, symVal s1, symVal s2, symVal s3 with
  | some v0, some v1, some v2, some v3 =>
    let w : BitVec 24 :=
      v0.setWidth 24 ||| (v1.setWidth 24 <<< 6) ||| (v2.setWidth 24 <<< 12) ||| (v3.setWidth 24 <<< 18)
    some (w.extractLsb' 0 8, w.extractLsb' 8 8, w.extractLsb' 16 8)
  | _, _, _, _ => none

/-- `encode_group` as a text of four symbols. -/
def groupText (b0 b1 b2 : Byte) : List Byte :=
  let s := encodeGroup b0 b1 b2
  [s.1, s.2.1, s.2.2.1, s.2.2.2]

/-- `ENC22`: five full groups from the first byte on, then the first two symbols of the final partial group
(41_codec.md R89). -/
def enc22 (d : BitVec 128) : List Byte :=
  (List.range 5).flatMap (fun k => groupText (byteOf d (3 * k)) (byteOf d (3 * k + 1)) (byteOf d (3 * k + 2)))
    ++ (groupText (byteOf d 15) 0x00#8 0x00#8).take 2

/-- The values of a text's symbols, or nothing if one byte is not in the alphabet. -/
def textValues : List Byte → Option (List Sextet)
  | [] => some []
  | c :: t =>
    match symVal c, textValues t with
    | some v, some vs => some (v :: vs)
    | _, _ => none

/-- `W`, the sum of the values shifted by 6 bits each, first symbol least significant (41_codec.md R90). -/
def fieldValue : List Sextet → Nat
  | [] => 0
  | v :: vs => v.toNat + 2 ^ 6 * fieldValue vs

/-- `DEC22`: the alphabet check of the whole field, then the byte count, then the digest and the indication that the
discarded bits [131:128] are not all zero (41_codec.md R90, R92). -/
def dec22 (t : List Byte) : Except Code (BitVec 128 × Bool) :=
  match textValues t with
  | none => .error .decodeFailure
  | some vs =>
    if 6 * t.length / 8 ≠ 16 then .error .malformedDigest
    else .ok (BitVec.ofNat 128 (fieldValue vs), decide (fieldValue vs / 2 ^ 128 % 2 ^ 4 ≠ 0))

/-- The alphabet as the source lists it, index 0 first (30_encoding.md R69): an independent form that ALPHA and VAL are
compared with. -/
def legacyAlphabet : List Byte :=
  [0x2E#8, 0x2F#8, 0x30#8, 0x31#8, 0x32#8, 0x33#8, 0x34#8, 0x35#8, 0x36#8, 0x37#8, 0x38#8, 0x39#8]
    ++ [0x41#8, 0x42#8, 0x43#8, 0x44#8, 0x45#8, 0x46#8, 0x47#8, 0x48#8, 0x49#8, 0x4A#8, 0x4B#8, 0x4C#8, 0x4D#8,
        0x4E#8, 0x4F#8, 0x50#8, 0x51#8, 0x52#8, 0x53#8, 0x54#8, 0x55#8, 0x56#8, 0x57#8, 0x58#8, 0x59#8, 0x5A#8]
    ++ [0x61#8, 0x62#8, 0x63#8, 0x64#8, 0x65#8, 0x66#8, 0x67#8, 0x68#8, 0x69#8, 0x6A#8, 0x6B#8, 0x6C#8, 0x6D#8,
        0x6E#8, 0x6F#8, 0x70#8, 0x71#8, 0x72#8, 0x73#8, 0x74#8, 0x75#8, 0x76#8, 0x77#8, 0x78#8, 0x79#8, 0x7A#8]

/-- The symbol of a value by its index in that list (30_encoding.md R69), the independent form of ALPHA. -/
def symbolOf (v : Sextet) : Byte := legacyAlphabet.getD v.toNat 0x00#8

/-- One big-endian base64 group of the source's right-to-left procedure: the first value is most significant
(41_codec.md R91, step 3). -/
def bigEndianGroups : List Sextet → List Byte
  | v0 :: v1 :: v2 :: v3 :: vs =>
    let w : BitVec 24 := v0 ++ v1 ++ v2 ++ v3
    w.extractLsb' 16 8 :: w.extractLsb' 8 8 :: w.extractLsb' 0 8 :: bigEndianGroups vs
  | _ => []

/-- The source's right-to-left decoding of a text of symbol values (41_codec.md R91, steps 1 to 5): reverse the text,
pad it in front with the symbol of value 0 to a multiple of 4, decode big-endian groups, reverse the bytes, keep the
first 16. An independent form that DEC22 is compared with. -/
def rightToLeftDigest (vs : List Sextet) : List Byte :=
  let r := vs.reverse
  ((bigEndianGroups (List.replicate ((4 - r.length % 4) % 4) 0#6 ++ r)).reverse).take 16

end Sys2Proof.Machine
end

