-- ==== Sys2Proof/Machine/Operands.lean ====
section
/-! DEFINITION. The implicit operands of the commands and where their results go (30_encoding.md R64, R65, R66,
20_memory.md R53, 60_exceptions.md R148). -/

namespace Sys2Proof.Machine

/-- SALT[0..8), byte 0 in bits [7:0]. -/
def State.salt (s : State) : BitVec 64 := leVec 64 (s.bytesAt saltBase 8)

/-- DIGEST[0..16), byte 0 in bits [7:0]. -/
def State.digest (s : State) : BitVec 128 := leVec 128 (s.bytesAt digestBase 16)

/-- TEXT[0..TEXTLEN) (10_state.md R33). -/
def State.text (s : State) : List Byte := s.bytesAt textBase s.textlen.toNat

/-- PW[0..PWLEN) (10_state.md R32). -/
def State.password (s : State) : List Byte := s.bytesAt pwBase s.pwlen.toNat

/-- TEXTLEN.LEN > TEXT_BUF_LEN (60_exceptions.md R148). -/
def State.textTooLong (s : State) : Bool := decide (s.params.textBufLen < s.textlen.toNat)

/-- PWLEN.LEN > PW_BUF_LEN (60_exceptions.md R148). -/
def State.passwordTooLong (s : State) : Bool := decide (s.params.pwBufLen < s.pwlen.toNat)

/-- ARG[31:n] != 0: the operand does not fit the n bits the command takes (30_encoding.md R66, 60_exceptions.md R148). -/
def argExceeds (n : Nat) (s : State) : Bool := decide (s.arg >>> n ≠ 0#32)

/-- `SALT[0..8) <- v`. -/
def State.putSalt (s : State) (v : BitVec 64) : State := s.putBytes saltBase (leBytes 8 v)

/-- `DIGEST[0..16) <- v`. -/
def State.putDigest (s : State) (v : BitVec 128) : State := s.putBytes digestBase (leBytes 16 v)

/-- `TEXT[0..n) <- t; TEXTLEN <- n` for a text t of n bytes (30_encoding.md R65). -/
def State.putText (s : State) (t : List Byte) : State :=
  { s.putBytes textBase t with textlen := BitVec.ofNat 8 t.length }

end Sys2Proof.Machine
end

