-- ==== Sys2Proof/Machine/CodecCommands.lean ====
section
/-! DEFINITION. The meanings of the six codec commands, each its SETUP micro-step (41_codec.md R95 to R100). -/

namespace Sys2Proof.Machine

/-- SYM2VAL (41_codec.md R95). -/
def execSym2val (s : State) : Host.Outcome State Fault Refusal :=
  .next (if argExceeds 8 s then complete .badOperand s
    else match symVal (byteOf s.arg 0) with
      | none => complete .invalidCharacter s
      | some v => complete .none { s with result := v.setWidth 32 })

/-- VAL2SYM (41_codec.md R96). -/
def execVal2sym (s : State) : Host.Outcome State Fault Refusal :=
  .next (if argExceeds 6 s then complete .badOperand s
    else complete .none { s with result := (alpha (s.arg.extractLsb' 0 6)).setWidth 32 })

/-- ENCGRP (41_codec.md R97). -/
def execEncgrp (s : State) : Host.Outcome State Fault Refusal :=
  .next (if argExceeds 24 s then complete .badOperand s
    else
      let r := encodeGroup (byteOf s.arg 0) (byteOf s.arg 1) (byteOf s.arg 2)
      complete .none { s with result := r.2.2.2 ++ r.2.2.1 ++ r.2.1 ++ r.1 })

/-- DECGRP (41_codec.md R98). -/
def execDecgrp (s : State) : Host.Outcome State Fault Refusal :=
  .next (match decodeGroup (byteOf s.arg 0) (byteOf s.arg 1) (byteOf s.arg 2) (byteOf s.arg 3) with
    | none => complete .invalidCharacter s
    | some (b0, b1, b2) => complete .none { s with result := 0x00#8 ++ b2 ++ b1 ++ b0 })

/-- ENCDIG (41_codec.md R99). -/
def execEncdig (s : State) : Host.Outcome State Fault Refusal :=
  .next (complete .none (s.putText (enc22 s.digest)))

/-- DECDIG (41_codec.md R100). -/
def execDecdig (s : State) : Host.Outcome State Fault Refusal :=
  .next (if s.textTooLong then complete .badOperand s
    else match dec22 s.text with
      | .error c => complete c s
      | .ok (d, nc) => complete .none { s.putDigest d with noncanon := nc })

end Sys2Proof.Machine
end

