-- ==== Sys2Proof/Machine/Md5.lean ====
section
/-! DEFINITION. The MD5 core (43_md5_core.md). The spec supplies R115 to R126 from general knowledge (log 10). -/

namespace Sys2Proof.Machine

/-- The four-word chaining value of the core (43_md5_core.md R120). -/
structure Md5State where
  a : Word
  b : Word
  c : Word
  d : Word
  deriving DecidableEq, Repr

/-- Left rotation of a word (43_md5_core.md R115). -/
def rotl (x : Word) (s : Nat) : Word := (x <<< s) ||| (x >>> (32 - s))

/-- F, G, H and I (43_md5_core.md R116). -/
def md5F (b c d : Word) : Word := (b &&& c) ||| (~~~b &&& d)

@[inherit_doc md5F] def md5G (b c d : Word) : Word := (b &&& d) ||| (c &&& ~~~d)

@[inherit_doc md5F] def md5H (b c d : Word) : Word := b ^^^ c ^^^ d

@[inherit_doc md5F] def md5I (b c d : Word) : Word := c ^^^ (b ||| ~~~d)

/-- The function of step i (43_md5_core.md R119, R120). -/
def md5Aux (i : Nat) (b c d : Word) : Word :=
  if i < 16 then md5F b c d else if i < 32 then md5G b c d else if i < 48 then md5H b c d else md5I b c d

/-- S[i], the rotation amount of step i (43_md5_core.md R117). -/
def md5Shift (i : Nat) : Nat :=
  (if i < 16 then [7, 12, 17, 22]
    else if i < 32 then [5, 9, 14, 20]
    else if i < 48 then [4, 11, 16, 23]
    else [6, 10, 15, 21]).getD (i % 4) 0

/-- The table T (43_md5_core.md R118). -/
def md5Table : List Word :=
  [0xd76aa478#32, 0xe8c7b756#32, 0x242070db#32, 0xc1bdceee#32, 0xf57c0faf#32, 0x4787c62a#32, 0xa8304613#32, 0xfd469501#32]
    ++ [0x698098d8#32, 0x8b44f7af#32, 0xffff5bb1#32, 0x895cd7be#32, 0x6b901122#32, 0xfd987193#32, 0xa679438e#32, 0x49b40821#32]
    ++ [0xf61e2562#32, 0xc040b340#32, 0x265e5a51#32, 0xe9b6c7aa#32, 0xd62f105d#32, 0x02441453#32, 0xd8a1e681#32, 0xe7d3fbc8#32]
    ++ [0x21e1cde6#32, 0xc33707d6#32, 0xf4d50d87#32, 0x455a14ed#32, 0xa9e3e905#32, 0xfcefa3f8#32, 0x676f02d9#32, 0x8d2a4c8a#32]
    ++ [0xfffa3942#32, 0x8771f681#32, 0x6d9d6122#32, 0xfde5380c#32, 0xa4beea44#32, 0x4bdecfa9#32, 0xf6bb4b60#32, 0xbebfbc70#32]
    ++ [0x289b7ec6#32, 0xeaa127fa#32, 0xd4ef3085#32, 0x04881d05#32, 0xd9d4d039#32, 0xe6db99e5#32, 0x1fa27cf8#32, 0xc4ac5665#32]
    ++ [0xf4292244#32, 0x432aff97#32, 0xab9423a7#32, 0xfc93a039#32, 0x655b59c3#32, 0x8f0ccc92#32, 0xffeff47d#32, 0x85845dd1#32]
    ++ [0x6fa87e4f#32, 0xfe2ce6e0#32, 0xa3014314#32, 0x4e0811a1#32, 0xf7537e82#32, 0xbd3af235#32, 0x2ad7d2bb#32, 0xeb86d391#32]

/-- T[i] (43_md5_core.md R118). -/
def md5T (i : Nat) : Word := md5Table.getD i 0#32

/-- K[i], the message word step i uses (43_md5_core.md R119). -/
def md5K (i : Nat) : Nat :=
  if i < 16 then i
  else if i < 32 then (5 * i + 1) % 16
  else if i < 48 then (3 * i + 5) % 16
  else 7 * i % 16

/-- Step i of the compression function over the message words X (43_md5_core.md R120). -/
def md5Step (X : List Word) (s : Md5State) (i : Nat) : Md5State :=
  let t := s.a + md5Aux i s.b s.c s.d + md5T i + X.getD (md5K i) 0#32
  { a := s.d, b := s.b + rotl t (md5Shift i), c := s.b, d := s.c }

/-- The compression function (43_md5_core.md R120): the core's `go` on one block (42_checksum.md R108). -/
def md5Compress (s : Md5State) (X : List Word) : Md5State :=
  let r := (List.range 64).foldl (md5Step X) s
  { a := s.a + r.a, b := s.b + r.b, c := s.c + r.c, d := s.d + r.d }

/-- The initial chaining value (43_md5_core.md R121): the core's `init`. -/
def md5Init : Md5State :=
  { a := 0x67452301#32, b := 0xEFCDAB89#32, c := 0x98BADCFE#32, d := 0x10325476#32 }

/-- `pad(m)` (43_md5_core.md R122). (55 - L) mod 64 is written without a negative number. -/
def md5Pad (m : List Byte) : List Byte :=
  m ++ [0x80#8] ++ List.replicate ((55 + 64 - m.length % 64) % 64) 0x00#8
    ++ leBytes 8 (BitVec.ofNat 64 (8 * m.length))

/-- `nb(L)`, the number of 64-byte blocks of a padded message of L bytes (43_md5_core.md R122, 42_checksum.md R109). -/
def md5Blocks (L : Nat) : Nat := (L + 8) / 64 + 1

/-- The 16 words of block k of a padded message (43_md5_core.md R115, R120). -/
def md5BlockWords (P : List Byte) (k : Nat) : List Word :=
  (List.range 16).map (fun j => leVec 32 ((P.drop (64 * k + 4 * j)).take 4))

/-- `MD5(m)`; digest byte 0 is the least significant byte of A, in bits [7:0] (43_md5_core.md R123, R124). -/
def md5 (m : List Byte) : BitVec 128 :=
  let P := md5Pad m
  let r := (List.range (md5Blocks m.length)).foldl (fun s k => md5Compress s (md5BlockWords P k)) md5Init
  r.d ++ r.c ++ r.b ++ r.a

end Sys2Proof.Machine
end

