-- ==== Sys2Proof/Machine/Pipeline.lean ====
section
/-! DEFINITION. The iterated salted MD5 pipeline (42_checksum.md R101 to R107). -/

namespace Sys2Proof.Machine

/-- n chained MD5 applications: `h = MD5(h ++ P)`, n times (42_checksum.md R101). -/
def chainMd5 (P : List Byte) : Nat → BitVec 128 → BitVec 128
  | 0, h => h
  | n + 1, h => chainMd5 P n (md5 (leBytes 16 h ++ P))

/-- `checksum(P, S, e)`: the seed hash and 2^e chained applications (42_checksum.md R101, R102). -/
def checksum (P : List Byte) (S : BitVec 64) (e : Sextet) : BitVec 128 :=
  chainMd5 P (2 ^ e.toNat) (md5 (leBytes 8 S ++ P))

/-- The one-hot load value 2^e of the iteration counter (42_checksum.md R104). -/
def iterLoad (e : Sextet) : BitVec 64 := 1#64 <<< e.toNat

/-- `hash_start(e, S)` (42_checksum.md R106, message of R105). -/
def hashStart (e : Sextet) (S : BitVec 64) (s : State) : State :=
  { s with
    iter := iterLoad e
    h := md5 (leBytes 8 S ++ s.password)
    phase := .chain }

/-- The chain step, with the command's own `finish` (42_checksum.md R107). -/
def chainStep (finish : State → State) (s : State) : State :=
  if s.iter ≠ 0#64 then { s with h := md5 (leBytes 16 s.h ++ s.password), iter := s.iter - 1#64 }
  else finish s

end Sys2Proof.Machine
end

