-- ==== Sys2Proof/Machine/Hash.lean ====
section
/-! DEFINITION. The meaning of CHKSUM (42_checksum.md R110): its SETUP micro-step, and its CHAIN micro-step in phase
CHAIN (log 7). -/

namespace Sys2Proof.Machine

/-- CHKSUM's SETUP rule (42_checksum.md R110). -/
def setupChksum (s : State) : State :=
  if s.passwordTooLong then complete .badOperand s else hashStart s.exp s.salt s

/-- CHKSUM's `finish` (42_checksum.md R110). -/
def finishChksum (s : State) : State := complete .none (s.putDigest s.h)

/-- CHKSUM (42_checksum.md R110, chain step R107). -/
def execChksum (s : State) : Host.Outcome State Fault Refusal :=
  .next (match s.phase with
    | .chain => chainStep finishChksum s
    | _ => setupChksum s)

end Sys2Proof.Machine
end

