-- ==== Sys2Proof/Machine/Record.lean ====
section
/-! DEFINITION. Records: parsing and serialization as pure functions (44_record.md R128, R134, 30_encoding.md R70). -/

namespace Sys2Proof.Machine

/-- The fields of a parsed record (44_record.md R128). -/
structure Record where
  exp : Sextet
  salt : BitVec 64
  digest : BitVec 128
  nonCanon : Bool
  deriving DecidableEq, Repr

/-- The identifier `$P$` (30_encoding.md R70). -/
def recordIdentifier : List Byte := [0x24#8, 0x50#8, 0x24#8]

/-- `PARSEREC(t, len t)`: the steps in the source's order, the first that fails deciding the code
(44_record.md R128, R132). -/
def parseRec (t : List Byte) : Except Code Record :=
  if t.length < 34 then .error .oldFormat
  else if t.take 3 ≠ recordIdentifier then .error .invalidIdentifier
  else
    match symVal (t.getD 3 0x00#8) with
    | none => .error .invalidIterationCount
    | some e =>
      match dec22 (t.drop 12) with
      | .error c => .error c
      | .ok (d, nc) => .ok { exp := e, salt := leVec 64 ((t.drop 4).take 8), digest := d, nonCanon := nc }

/-- The record text of an exponent, a salt and a digest, 34 bytes (44_record.md R134). -/
def formatRec (e : Sextet) (S : BitVec 64) (d : BitVec 128) : List Byte :=
  recordIdentifier ++ [alpha e] ++ leBytes 8 S ++ enc22 d

end Sys2Proof.Machine
end

