-- ==== Sys2Proof/Machine/RecordCommands.lean ====
section
/-! DEFINITION. The meanings of PARSE, FORMAT, GENERATE and VERIFY (44_record.md R133 to R136); GENERATE and VERIFY take
their SETUP micro-step, and their CHAIN micro-step in phase CHAIN (log 7). -/

namespace Sys2Proof.Machine

/-- PARSE (44_record.md R133). -/
def execParse (s : State) : Host.Outcome State Fault Refusal :=
  .next (if s.textTooLong then complete .badOperand s
    else match parseRec s.text with
      | .error c => complete c s
      | .ok r => complete .none { (s.putSalt r.salt).putDigest r.digest with exp := r.exp, noncanon := r.nonCanon })

/-- FORMAT (44_record.md R134). -/
def execFormat (s : State) : Host.Outcome State Fault Refusal :=
  .next (complete .none (s.putText (formatRec s.exp s.salt s.digest)))

/-- GENERATE's SETUP rule (44_record.md R135). -/
def setupGenerate (s : State) : State :=
  if s.passwordTooLong then complete .badOperand s else hashStart s.exp s.salt s

/-- GENERATE's `finish` (44_record.md R135). -/
def finishGenerate (s : State) : State :=
  complete .none ((s.putDigest s.h).putText (formatRec s.exp s.salt s.h))

/-- GENERATE (44_record.md R135, chain step 42_checksum.md R107). -/
def execGenerate (s : State) : Host.Outcome State Fault Refusal :=
  .next (match s.phase with
    | .chain => chainStep finishGenerate s
    | _ => setupGenerate s)

/-- VERIFY's SETUP rule: the parsed record goes to the hidden latches (44_record.md R136, 10_state.md R39). -/
def setupVerify (s : State) : State :=
  if s.textTooLong || s.passwordTooLong then complete .badOperand s
  else match parseRec s.text with
    | .error c => complete c s
    | .ok r => hashStart r.exp r.salt { s with pe := r.exp, ps := r.salt, pd := r.digest, pnc := r.nonCanon }

/-- VERIFY's `finish`: MATCH and NONCANON are committed on code 0 and on code 6 (44_record.md R136, R137,
40_command_protocol.md R77). -/
def finishVerify (s : State) : State :=
  if s.h = s.pd then complete .none { s with noncanon := s.pnc, verMatch := true }
  else complete .verificationFailure { s with noncanon := s.pnc, verMatch := false }

/-- VERIFY (44_record.md R136, chain step 42_checksum.md R107). -/
def execVerify (s : State) : Host.Outcome State Fault Refusal :=
  .next (match s.phase with
    | .chain => chainStep finishVerify s
    | _ => setupVerify s)

end Sys2Proof.Machine
end

