-- ==== Sys2Proof/Machine/Dispatch.lean ====
section
/-! DEFINITION. The meaning of every command: the micro-step the sequencer takes for it (40_command_protocol.md R76,
42_checksum.md R107). -/

namespace Sys2Proof.Machine

/-- The micro-step of a command at a state (log 7). -/
def exec (i : Instr) (s : State) : Host.Outcome State Fault Refusal :=
  match i with
  | .sym2val => Sys2Proof.Machine.execSym2val s
  | .val2sym => Sys2Proof.Machine.execVal2sym s
  | .encgrp => Sys2Proof.Machine.execEncgrp s
  | .decgrp => Sys2Proof.Machine.execDecgrp s
  | .encdig => Sys2Proof.Machine.execEncdig s
  | .decdig => Sys2Proof.Machine.execDecdig s
  | .chksum => Sys2Proof.Machine.execChksum s
  | .parse => Sys2Proof.Machine.execParse s
  | .format => Sys2Proof.Machine.execFormat s
  | .generate => Sys2Proof.Machine.execGenerate s
  | .verify => Sys2Proof.Machine.execVerify s

end Sys2Proof.Machine
end

