-- ==== Sys2Proof/Machine/Sequencer.lean ====
section
/-! DEFINITION. The sequencer's micro-steps (40_command_protocol.md R75, R76, 42_checksum.md R107). -/

namespace Sys2Proof.Machine

/-- The micro-step of phase SETUP: decode OPL, and run the command or complete with ILLEGAL_COMMAND
(40_command_protocol.md R76). -/
def setupStep (s : State) : Host.Outcome State Fault Refusal :=
  match decode s.opl with
  | .error _ => .next (complete .illegalCommand s)
  | .ok i => exec i s

/-- The micro-step of phase CHAIN, which only the hash commands have (42_checksum.md R107; log 8). -/
def chainPhaseStep (s : State) : Host.Outcome State Fault Refusal :=
  match decode s.opl with
  | .ok .chksum => exec .chksum s
  | .ok .generate => exec .generate s
  | .ok .verify => exec .verify s
  | _ => .fault .chainWithoutHashCommand

/-- The sequencer's turn: the one enabled micro-step, or nothing in phase IDLE and during reset
(40_command_protocol.md R75, 70_reset_and_hazards.md R160). -/
def sequencerTurn (s : State) : Host.Outcome State Fault Refusal :=
  if s.inReset then .next s
  else match s.phase with
    | .idle => .next s
    | .setup => setupStep s
    | .chain => chainPhaseStep s

end Sys2Proof.Machine
end

