-- ==== Sys2Proof/Machine/Turns.lean ====
section
/-! DEFINITION. One turn of the interleaving of host, sequencer and reset line (20_memory.md R55,
40_command_protocol.md R75, 70_reset_and_hazards.md R160; log 1). -/

namespace Sys2Proof.Machine

/-- A turn that was given. A reset line that is already at the level it is driven to has no edge. -/
def takeTurn (t : Turn) (s : State) : Host.Outcome State Fault Refusal :=
  match t with
  | .bus x => .next (transact x s)
  | .host => hostTurn s
  | .sequencer => sequencerTurn s
  | .assertReset => .next (assertReset s)
  | .releaseReset => .next (if s.inReset then releaseReset s else s)

/-- The turn taken when none is given: the sequencer's while it is busy, which makes it weakly fair
(40_command_protocol.md R75), else the host program's; nothing during reset of an idle block but what the bus answers.
DESIGN CHOICE, safe (log 1). -/
def defaultTurn (s : State) : Host.Outcome State Fault Refusal :=
  if s.busy && !s.inReset then sequencerTurn s else hostTurn s

/-- The next turn: the first one given, else the default. -/
def nextTurn (s : State) : Host.Outcome State Fault Refusal :=
  match s.inputs with
  | [] => defaultTurn s
  | t :: rest => takeTurn t { s with inputs := rest }

/-- The state after the acceptance of a command word with no turn given before the sequencer's: what a fetch is here
(40_command_protocol.md R73; log 6). -/
def placeCommand (w : Word) (s : State) : State :=
  { accept w s with inputs := [], inReset := false }

end Sys2Proof.Machine
end

