-- ==== Sys2Proof/Machine/Step.lean ====
section
/-! DEFINITION. One step of the machine, and how a command word is placed to be run by the next one. -/

namespace Sys2Proof.Machine

/-- One step: the next turn (log 1). -/
def step (s : State) : Host.Outcome State Fault Refusal := nextTurn s

/-- s with the command word just accepted, so that the very next step is its SETUP micro-step (log 6). -/
def State.withFetchWord (s : State) (nbits w : Nat) : State := placeCommand (tableWord nbits w) s

end Sys2Proof.Machine
end

