-- ==== Sys2Proof/Safety.lean ====
section
/-! DEFINITION. What counts as a safe run of the block, in the terms the statements use: the invariants of the machine,
and the outcome classes of a record text as the spec lists them. -/

namespace Sys2Proof.Machine

/-- A 32-bit bus write as a turn. -/
def busWrite (addr : Nat) (v : Word) : Turn := .bus { addr := addr, width := .word, access := .write v }

/-- A 32-bit bus read as a turn. -/
def busRead (addr : Nat) : Turn := .bus { addr := addr, width := .word, access := .read }

/-- n steps of the machine, stopping at the first fault or refusal. -/
def run (n : Nat) (s : State) : Host.Outcome State Fault Refusal := Host.Core.run Sys2Proof.core n s

/-- The word a `value` of a host program stands for in a state: the literal, the word its name is bound to, or for ABORT
`0x0000_0001 | (IRQ_EN << 1)`, which is 3 or 1 (30_encoding.md R68; log 9). -/
abbrev HostValue.standsFor (v : HostValue) (s : State) (w : Word) : Prop :=
  v = .lit w
    ∨ (∃ n, v = .name n ∧ lookupVar s.host.vars n = some w)
    ∨ (v = .keepIrqEn ∧ w = if s.irqEn then 0x00000003#32 else 0x00000001#32)

/-- A 32-bit word offset of the register map, in the ranges 20_memory.md R45 lists. -/
abbrev mappedOffset (p : Params) (off : Nat) : Prop :=
  off ≤ 0x02C ∨ (0x040 ≤ off ∧ off ≤ 0x044) ∨ (0x050 ≤ off ∧ off ≤ 0x05C)
    ∨ (0x080 ≤ off ∧ off ≤ 0x080 + p.textBufLen - 4) ∨ (0x100 ≤ off ∧ off ≤ 0x100 + p.pwBufLen - 4)

/-- A word offset inside a buffer, in the ranges 20_memory.md R45 lists. -/
abbrev bufferOffset (p : Params) (off : Nat) : Prop :=
  (0x040 ≤ off ∧ off ≤ 0x044) ∨ (0x050 ≤ off ∧ off ≤ 0x05C)
    ∨ (0x080 ≤ off ∧ off ≤ 0x080 + p.textBufLen - 4) ∨ (0x100 ≤ off ∧ off ≤ 0x100 + p.pwBufLen - 4)

/-- OPL holds a hash command (42_checksum.md R106). -/
abbrev holdsHashCommand (s : State) : Prop :=
  s.opl = encode .chksum ∨ s.opl = encode .generate ∨ s.opl = encode .verify

/-- The salt of the running hash command: VERIFY's is the parsed record's (42_checksum.md R106, 44_record.md R136). -/
def State.hashSalt (s : State) : BitVec 64 := if s.opl = encode .verify then s.ps else s.salt

/-- The exponent of the running hash command (42_checksum.md R106, 44_record.md R136). -/
def State.hashExp (s : State) : Sextet := if s.opl = encode .verify then s.pe else s.exp

/-- The invariant of the control state and the buffers. -/
structure State.Inv (s : State) : Prop where
  /-- The parameters stay legal (00_scope.md R7). -/
  paramsLegal : s.params.legal
  /-- The buffers keep their canonical form. -/
  memWf : s.mem.wf
  /-- Only buffer cells are ever written (10_state.md R35). -/
  memInBuffers : ∀ c ∈ s.mem, inBuffer s.params c.1 = true
  /-- Phase CHAIN belongs to a hash command (10_state.md R36). -/
  chainHash : s.phase = .chain → holdsHashCommand s
  /-- In phase CHAIN the password fits its buffer (60_exceptions.md R148). -/
  chainPassword : s.phase = .chain → s.pwlen.toNat ≤ s.params.pwBufLen
  /-- In phase CHAIN the counter is at most its largest load value (42_checksum.md R104). -/
  chainIter : s.phase = .chain → s.iter.toNat ≤ 2 ^ 63
  /-- While busy, DONE, ERRCODE, MATCH and NONCANON are as acceptance left them (40_command_protocol.md R73). That DONE
  is 0 after a dropped CMD write too, against the last sentence of 70_reset_and_hazards.md R167, is the model's choice
  (log 16). -/
  busyClear : s.busy = true → s.done = false ∧ s.errcode = .none ∧ s.verMatch = false ∧ s.noncanon = false
  /-- While busy, LASTOP is the opcode field of OPL (10_state.md R28). -/
  busyLastop : s.busy = true → s.lastop = s.opl.extractLsb' 0 4
  /-- MATCH is written only by VERIFY (10_state.md R23). -/
  matchVerify : s.verMatch = true → s.lastop = 0xB#4 ∧ s.errcode = .none
  /-- NONCANON is written only by DECDIG, PARSE and VERIFY, on code 0 or VERIFY's code 6 (10_state.md R24). -/
  noncanonBy : s.noncanon = true →
    (s.errcode = .none ∧ (s.lastop = 0x6#4 ∨ s.lastop = 0x8#4 ∨ s.lastop = 0xB#4))
      ∨ (s.errcode = .verificationFailure ∧ s.lastop = 0xB#4)
  /-- Code 6 is raised only by VERIFY (60_exceptions.md R145). -/
  mismatchVerify : s.errcode = .verificationFailure → s.lastop = 0xB#4

/-- The invariant of the hash pipeline: whatever the host does meanwhile, the chain of a running hash command leads to
the checksum of the operands (42_checksum.md R107, R112, 40_command_protocol.md R79). -/
structure State.HashInv (s : State) : Prop where
  /-- The ITER chained applications still to come turn H into the checksum (42_checksum.md R101, R107). -/
  chained : s.phase = .chain → chainMd5 s.password s.iter.toNat s.h = checksum s.password s.hashSalt s.hashExp
  /-- ITER is at most 2^e (42_checksum.md R107). -/
  bounded : s.phase = .chain → s.iter.toNat ≤ 2 ^ s.hashExp.toNat
  /-- VERIFY's latches hold the record that TEXT still holds (10_state.md R39, 44_record.md R136). -/
  parsed : s.phase = .chain → s.opl = encode .verify →
    s.textTooLong = false ∧ parseRec s.text = .ok { exp := s.pe, salt := s.ps, digest := s.pd, nonCanon := s.pnc }

/-- The code a record text fails with, in the outcome classes of 44_record.md R131 and the order of R132; none for a
text that parses. The alphabet is the source's list (30_encoding.md R69). -/
def recordFailure (t : List Byte) : Option Code :=
  if t.length < 34 then some .oldFormat
  else if t.take 3 ≠ [0x24#8, 0x50#8, 0x24#8] then some .invalidIdentifier
  else if t.getD 3 0x00#8 ∉ legacyAlphabet then some .invalidIterationCount
  else if ¬ ∀ c ∈ t.drop 12, c ∈ legacyAlphabet then some .decodeFailure
  else if t.length ≠ 34 then some .malformedDigest
  else none

/-- The text of a record: identifier, exponent symbol, salt bytes, digest symbols (30_encoding.md R70). -/
def recordText (e : Sextet) (S : List Byte) (vs : List Sextet) : List Byte :=
  [0x24#8, 0x50#8, 0x24#8, symbolOf e] ++ S ++ vs.map symbolOf

/-- D is the digest that 22 symbol values carry: digest bit i is bit i mod 6 of value i / 6 (30_encoding.md R71,
41_codec.md R90). -/
abbrev digestOfValues (vs : List Sextet) (D : BitVec 128) : Prop :=
  ∀ i < 128, D.getLsbD i = (vs.getD (i / 6) 0#6).getLsbD (i % 6)

/-- The 22 symbols of a digest by the bit table of 30_encoding.md R71: symbol i carries digest bits [6i+5:6i]. -/
def symbolsOfDigest (D : BitVec 128) : List Byte :=
  (List.range 22).map (fun i => symbolOf ((D.setWidth 132).extractLsb' (6 * i) 6))

end Sys2Proof.Machine
end

