-- ==== Sys2Proof/Certificates/Slice0/Obligations.lean ====
section
/-! DEFINITION. The statements about the model. Fields `inputs`, `port` and `host` of State are the model's own (log 1,
log 2, log 9): that a step takes one turn off `inputs` and leaves its answer in `port` is said beside each rule. -/

open Sys2Proof Sys2Proof.Machine

/-! Decoding and what a step runs. -/

/-- Each command has one word, the one of the opcode map, and each legal word one command (30_encoding.md R61, R63); every
other word is rejected (R67). -/
def Obligations.DecodeEncodeAgree : Prop :=
  [Instr.sym2val, .val2sym, .encgrp, .decgrp, .encdig, .decdig, .chksum, .parse, .format, .generate, .verify].map encode
      = (List.range 11).map (fun k => BitVec.ofNat 32 (k + 1))
    ∧ ∀ (w : Word) (i : Instr),
      (decode w = .ok i ↔ w = encode i)
        ∧ ((∃ r, decode w = .error r) ↔
            (w.extractLsb' 4 28 ≠ 0#28 ∨ (w.extractLsb' 0 4).toNat ∈ [0x0, 0xC, 0xD, 0xE, 0xF]))

/-- The words of the opcode map, and some illegal ones (30_encoding.md R63, R67, 95_test_vectors.md V-L2-CMD). -/
def Obligations.TableWordsDecode : Prop :=
  decodeTableWord 32 0x00000001 = some .sym2val ∧ decodeTableWord 32 0x00000002 = some .val2sym
    ∧ decodeTableWord 32 0x00000003 = some .encgrp ∧ decodeTableWord 32 0x00000004 = some .decgrp
    ∧ decodeTableWord 32 0x00000005 = some .encdig ∧ decodeTableWord 32 0x00000006 = some .decdig
    ∧ decodeTableWord 32 0x00000007 = some .chksum ∧ decodeTableWord 32 0x00000008 = some .parse
    ∧ decodeTableWord 32 0x00000009 = some .format ∧ decodeTableWord 32 0x0000000A = some .generate
    ∧ decodeTableWord 32 0x0000000B = some .verify ∧ decodeTableWord 32 0x00000000 = none
    ∧ decodeTableWord 32 0x0000000C = none ∧ decodeTableWord 32 0x00000011 = none
    ∧ decodeTableWord 32 0x80000001 = none

/-- When OPL decodes to a command, the sequencer's step is that command's micro-step (40_command_protocol.md R75, R76,
42_checksum.md R107), whether the turn is the default one or a given one (log 1). -/
def Obligations.StepRunsDecodedCommand : Prop :=
  ∀ (s : State) (i : Instr), s.inReset = false → decode s.opl = .ok i →
    (s.phase = .setup ∨ (s.phase = .chain ∧ (i = .chksum ∨ i = .generate ∨ i = .verify))) →
    (s.inputs = [] → step s = exec i s)
      ∧ ∀ rest, s.inputs = .sequencer :: rest → step s = exec i { s with inputs := rest }

/-- An illegal word is accepted while idle, and ends with ILLEGAL_COMMAND in its SETUP micro-step (30_encoding.md R67,
40_command_protocol.md R73, R76, R77). Only the write is given as a turn; that the second step is the SETUP micro-step is
the default turn, the model's choice (log 1). -/
def Obligations.IllegalWordCompletes : Prop :=
  ∀ (s : State) (a : Nat) (w : Word), s.inReset = false → s.phase = .idle → windowOffset a = 0x00C →
    (w.extractLsb' 4 28 ≠ 0#28 ∨ (w.extractLsb' 0 4).toNat ∈ [0x0, 0xC, 0xD, 0xE, 0xF]) →
    s.inputs = [busWrite a w] →
    run 2 s =
      .next { s with
        inputs := []
        port := .ack
        opl := w
        lastop := w.extractLsb' 0 4
        verMatch := false
        noncanon := false
        errcode := .illegalCommand
        phase := .idle
        done := true }

/-! The command protocol and the register window. -/

/-- A CMD write while idle accepts the word (40_command_protocol.md R73). -/
def Obligations.CmdWriteWhileIdleAccepts : Prop :=
  ∀ (s : State) (a : Nat) (w : Word) (rest : List Turn), s.inReset = false → s.phase = .idle →
    windowOffset a = 0x00C → s.inputs = busWrite a w :: rest →
    step s =
      .next { s with
        inputs := rest
        port := .ack
        opl := w
        lastop := w.extractLsb' 0 4
        done := false
        errcode := .none
        verMatch := false
        noncanon := false
        phase := .setup }

/-- A CMD write while busy is dropped and sets CMD_OVR (40_command_protocol.md R74). -/
def Obligations.CmdWriteWhileBusyDropped : Prop :=
  ∀ (s : State) (a : Nat) (w : Word) (rest : List Turn), s.inReset = false → s.phase ≠ .idle →
    windowOffset a = 0x00C → s.inputs = busWrite a w :: rest →
    step s = .next { s with inputs := rest, port := .ack, cmdOvr := true }

/-- A write to ARG, EXP, PWLEN, TEXTLEN or a buffer word while busy is dropped and sets WR_IGN (20_memory.md R51). -/
def Obligations.OperandWritesWhileBusyDropped : Prop :=
  ∀ (s : State) (a : Nat) (w : Word) (rest : List Turn), s.inReset = false → s.phase ≠ .idle →
    (windowOffset a ∈ [0x014, 0x01C, 0x020, 0x024]
      ∨ (windowOffset a % 4 = 0 ∧ bufferOffset s.params (windowOffset a))) →
    s.inputs = busWrite a w :: rest →
    step s = .next { s with inputs := rest, port := .ack, wrIgn := true }

/-- Writes to ARG, EXP, PWLEN and TEXTLEN while idle store their low 32, 6, 16 and 8 bits (10_state.md R29, R31, R32,
R33). -/
def Obligations.OperandRegisterWritesWhileIdle : Prop :=
  ∀ (s : State) (a : Nat) (w : Word) (rest : List Turn), s.inReset = false → s.phase = .idle →
    s.inputs = busWrite a w :: rest →
    (windowOffset a = 0x014 → step s = .next { s with inputs := rest, port := .ack, arg := w })
      ∧ (windowOffset a = 0x01C →
          step s = .next { s with inputs := rest, port := .ack, exp := BitVec.ofNat 6 (w.toNat % 64) })
      ∧ (windowOffset a = 0x020 →
          step s = .next { s with inputs := rest, port := .ack, pwlen := BitVec.ofNat 16 (w.toNat % 65536) })
      ∧ (windowOffset a = 0x024 →
          step s = .next { s with inputs := rest, port := .ack, textlen := BitVec.ofNat 8 (w.toNat % 256) })

/-- Buffer words are little-endian in reads and, while idle, in writes, and a write leaves every other byte alone
(20_memory.md R46). -/
def Obligations.BufferWordsAreLittleEndian : Prop :=
  ∀ (s : State) (a : Nat) (rest : List Turn), s.inReset = false → windowOffset a % 4 = 0 →
    bufferOffset s.params (windowOffset a) →
    (∀ w, s.phase = .idle → s.inputs = busWrite a w :: rest →
        ∃ t, step s = .next t ∧ t = { s with inputs := rest, port := .ack, mem := t.mem }
          ∧ (∀ k < 4, t.byteAt (windowOffset a + k) = w.extractLsb' (8 * k) 8)
          ∧ ∀ x, x < windowOffset a ∨ windowOffset a + 4 ≤ x → t.byteAt x = s.byteAt x)
      ∧ (s.inputs = busRead a :: rest →
          step s =
            .next { s with
              inputs := rest
              port := .data (s.byteAt (windowOffset a + 3) ++ s.byteAt (windowOffset a + 2)
                ++ s.byteAt (windowOffset a + 1) ++ s.byteAt (windowOffset a)) })

/-- Which transactions get the bus-error response, that it changes nothing, and that a read sees 0 (20_memory.md R47
with the map of R45; 70_reset_and_hazards.md R160 for transactions during reset). -/
def Obligations.TransactionBusErrors : Prop :=
  ∀ (s : State) (x : Txn) (rest : List Turn), s.params.legal → s.inputs = .bus x :: rest →
    ((s.inReset = true ∨ x.width ≠ .word ∨ x.addr % 512 % 4 ≠ 0 ∨ ¬ mappedOffset s.params (x.addr % 512)) →
        step s = .next { s with inputs := rest, port := .busError } ∧ Response.busError.value = 0#32)
      ∧ (s.inReset = false → x.width = .word → x.addr % 512 % 4 = 0 → mappedOffset s.params (x.addr % 512) →
          ∃ t, step s = .next t ∧ t.port ≠ .busError)

/-- What a read of each register returns (10_state.md R15 to R19, R29 to R34). -/
def Obligations.RegisterReads : Prop :=
  ∀ (s : State) (a : Nat) (rest : List Turn), s.inReset = false → s.inputs = busRead a :: rest →
    (windowOffset a = 0x000 → step s = .next { s with inputs := rest, port := .data 0x50485041#32 })
      ∧ (windowOffset a = 0x004 →
          step s =
            .next { s with
              inputs := rest
              port := .data (0x01#8 ++ BitVec.ofNat 8 s.params.textBufLen ++ BitVec.ofNat 16 s.params.pwBufLen) })
      ∧ (windowOffset a = 0x008 →
          step s = .next { s with inputs := rest, port := .data (if s.irqEn then 0x00000002#32 else 0x00000000#32) })
      ∧ (windowOffset a = 0x00C → step s = .next { s with inputs := rest, port := .data 0x00000000#32 })
      ∧ (windowOffset a = 0x010 → step s = .next { s with inputs := rest, port := .data s.statusWord })
      ∧ (windowOffset a = 0x014 → step s = .next { s with inputs := rest, port := .data s.arg })
      ∧ (windowOffset a = 0x018 → step s = .next { s with inputs := rest, port := .data s.result })
      ∧ (windowOffset a = 0x01C → step s = .next { s with inputs := rest, port := .data (0#26 ++ s.exp) })
      ∧ (windowOffset a = 0x020 → step s = .next { s with inputs := rest, port := .data (0#16 ++ s.pwlen) })
      ∧ (windowOffset a = 0x024 → step s = .next { s with inputs := rest, port := .data (0#24 ++ s.textlen) })
      ∧ (windowOffset a = 0x028 →
          step s = .next { s with inputs := rest, port := .data (BitVec.ofNat 32 s.iter.toNat) })
      ∧ (windowOffset a = 0x02C →
          step s = .next { s with inputs := rest, port := .data (BitVec.ofNat 32 (s.iter.toNat / 2 ^ 32)) })

/-- The number of each completion code (60_exceptions.md R145), where each field stands in the STATUS word, and that the
reserved bits read 0 (10_state.md R19, R20, R22, R27; 60_exceptions.md R144: codes 0 to 10 only). -/
def Obligations.StatusWordLayout : Prop :=
  [Code.none, .oldFormat, .invalidIdentifier, .invalidIterationCount, .decodeFailure, .malformedDigest,
      .verificationFailure, .invalidCharacter, .illegalCommand, .badOperand, .aborted].map Code.bits
    = [0#4, 1#4, 2#4, 3#4, 4#4, 5#4, 6#4, 7#4, 8#4, 9#4, 10#4]
  ∧ ∀ s : State,
    (s.statusWord.getLsbD 0 = true ↔ s.phase ≠ .idle)
      ∧ s.statusWord.getLsbD 1 = s.done
      ∧ (s.statusWord.getLsbD 2 = true ↔ s.errcode ≠ .none)
      ∧ s.statusWord.getLsbD 3 = s.verMatch
      ∧ s.statusWord.getLsbD 4 = s.noncanon
      ∧ s.statusWord.getLsbD 5 = s.cmdOvr
      ∧ s.statusWord.getLsbD 6 = s.wrIgn
      ∧ s.statusWord.getLsbD 7 = false
      ∧ s.statusWord.extractLsb' 8 4 = s.errcode.bits
      ∧ (s.statusWord.extractLsb' 8 4).toNat ≤ 10
      ∧ s.statusWord.extractLsb' 12 4 = s.lastop
      ∧ s.statusWord.extractLsb' 16 16 = 0#16

/-- A read changes nothing but the port's answer, and repeated returns the same (20_memory.md R49). -/
def Obligations.ReadsHaveNoSideEffect : Prop :=
  ∀ (s : State) (x : Txn) (rest : List Turn), x.access = .read → s.inputs = .bus x :: .bus x :: rest →
    ∃ p, step s = .next { s with inputs := .bus x :: rest, port := p }
      ∧ run 2 s = .next { s with inputs := rest, port := p }

/-- Writes to ID, PARAMS, RESULT, ITER_LO and ITER_HI are ignored without error, and of the other registers a write's
reserved bits are (20_memory.md R50). -/
def Obligations.ReadOnlyAndReservedWritesIgnored : Prop :=
  ∀ (s : State) (a : Nat) (v w : Word) (rest : List Turn), s.inReset = false →
    (windowOffset a ∈ [0x000, 0x004, 0x018, 0x028, 0x02C] → s.inputs = busWrite a w :: rest →
        step s = .next { s with inputs := rest, port := .ack })
      ∧ ((windowOffset a = 0x008 ∧ v.extractLsb' 0 2 = w.extractLsb' 0 2)
            ∨ (windowOffset a = 0x010 ∧ v &&& 0x00000062#32 = w &&& 0x00000062#32)
            ∨ (windowOffset a = 0x01C ∧ v.extractLsb' 0 6 = w.extractLsb' 0 6)
            ∨ (windowOffset a = 0x020 ∧ v.extractLsb' 0 16 = w.extractLsb' 0 16)
            ∨ (windowOffset a = 0x024 ∧ v.extractLsb' 0 8 = w.extractLsb' 0 8) →
          step { s with inputs := busWrite a v :: rest } = step { s with inputs := busWrite a w :: rest }
            ∧ ∃ t, step { s with inputs := busWrite a v :: rest } = .next t ∧ t.port = .ack)

/-- A STATUS write clears DONE, CMD_OVR and WR_IGN by ones in bits 1, 5 and 6 in every phase, and changes nothing else
(10_state.md R19, R21, R25, R26, R27). -/
def Obligations.StatusWriteClears : Prop :=
  ∀ (s : State) (a : Nat) (w : Word) (rest : List Turn), s.inReset = false → windowOffset a = 0x010 →
    s.inputs = busWrite a w :: rest →
    step s =
      .next { s with
        inputs := rest
        port := .ack
        done := if w.getLsbD 1 then false else s.done
        cmdOvr := if w.getLsbD 5 then false else s.cmdOvr
        wrIgn := if w.getLsbD 6 then false else s.wrIgn }

/-- A CTRL write sets IRQ_EN in every phase, and its bit 0 aborts a running command (10_state.md R17,
40_command_protocol.md R80). -/
def Obligations.CtrlWriteAndAbort : Prop :=
  ∀ (s : State) (a : Nat) (w : Word) (rest : List Turn), s.inReset = false → windowOffset a = 0x008 →
    s.inputs = busWrite a w :: rest →
    (s.phase ≠ .idle → w.getLsbD 0 = true →
        step s =
          .next { s with
            inputs := rest
            port := .ack
            irqEn := w.getLsbD 1
            errcode := .aborted
            phase := .idle
            done := true })
      ∧ (s.phase = .idle ∨ w.getLsbD 0 = false →
          step s = .next { s with inputs := rest, port := .ack, irqEn := w.getLsbD 1 })

/-- An abort write against the completing micro-step: whichever comes first decides the outcome
(40_command_protocol.md R81). -/
def Obligations.AbortAgainstCompletion : Prop :=
  ∀ (s t : State) (a : Nat) (w : Word), s.inReset = false → s.phase ≠ .idle → windowOffset a = 0x008 →
    w.getLsbD 0 = true → step { s with inputs := [] } = .next t → t.phase = .idle →
    run 2 { s with inputs := [.sequencer, busWrite a w] } =
        .next { t with irqEn := w.getLsbD 1, port := .ack }
      ∧ run 2 { s with inputs := [busWrite a w, .sequencer] } =
          .next { s with
            inputs := []
            port := .ack
            irqEn := w.getLsbD 1
            errcode := .aborted
            phase := .idle
            done := true }

/-- The interrupt line is DONE & IRQ_EN, and 0 during reset (10_state.md R40, 60_exceptions.md R151,
70_reset_and_hazards.md R160). -/
def Obligations.IrqLine : Prop :=
  ∀ s : State, (s.inReset = false → (s.irq = true ↔ s.done = true ∧ s.irqEn = true)) ∧ (s.inReset = true → s.irq = false)

/-! Reset. -/

/-- What the release of reset leaves: the values of 10_state.md R42, and in the buffers the reset parameter
(70_reset_and_hazards.md R160). That the parameter is numbered by the resets is the model's choice (log 3). -/
def Obligations.ResetReleaseValues : Prop :=
  ∀ (s : State) (rest : List Turn), s.inReset = true → s.inputs = .releaseReset :: rest →
    ∃ t, step s = .next t ∧ t.inReset = false ∧ t.phase = .idle ∧ t.irq = false
      ∧ t.ctrlWord = 0#32 ∧ t.statusWord = 0#32
      ∧ t.arg = 0#32 ∧ t.result = 0#32 ∧ t.exp = 0#6 ∧ t.pwlen = 0#16 ∧ t.textlen = 0#8 ∧ t.iter = 0#64
      ∧ t.params = s.params ∧ t.inputs = rest ∧ t.port = s.port ∧ t.host = s.host
      ∧ ∀ a, t.byteAt a = Config.resetByte (s.epoch + 1) a

/-- During reset every transaction gets the bus-error response, irq is 0 and no micro-step is taken
(70_reset_and_hazards.md R160). -/
def Obligations.DuringReset : Prop :=
  ∀ (s : State) (rest : List Turn), s.inReset = true →
    s.irq = false
      ∧ (∀ x, s.inputs = .bus x :: rest → step s = .next { s with inputs := rest, port := .busError })
      ∧ (s.inputs = .sequencer :: rest → step s = .next { s with inputs := rest })

/-- A reset that comes while a command runs ends it with no completion: nothing is committed, DONE does not become 1, and
after the release STATUS = 0 (70_reset_and_hazards.md R161). That the assertion itself leaves the phase and every register
as they were until the release is the model's choice (log 11), and so is the numbering of the resets by which
Config.resetByte gives the buffers' contents (log 3). -/
def Obligations.ResetEndsCommand : Prop :=
  ∀ s : State, s.inReset = false → s.phase ≠ .idle → s.inputs = [.assertReset, .releaseReset] →
    step s = .next { s with inputs := [.releaseReset], inReset := true }
      ∧ ∃ t, run 2 s = .next t ∧ t.done = false ∧ t.statusWord = 0#32 ∧ t.phase = .idle
        ∧ t.result = 0#32 ∧ ∀ a, t.byteAt a = Config.resetByte (s.epoch + 1) a

/-- Commands that run straight after reset with no operand written (70_reset_and_hazards.md R162,
95_test_vectors.md V-L2-RST). The state with the word just accepted is withFetchWord's (log 6), every step takes
the default turn (log 1), both the model's choice, and the unspecified salt is the free value of log 3. -/
def Obligations.FirstCommandsAfterReset : Prop :=
  ∀ (p : Params) (n : Nat), p.legal →
    (∃ t, step ((State.resetWith p n).withFetchWord 32 0x1) = .next t ∧ t.statusWord = 0x00001706#32)
      ∧ (∃ t, step ((State.resetWith p n).withFetchWord 32 0x6) = .next t ∧ t.statusWord = 0x00006506#32)
      ∧ (∃ t, step ((State.resetWith p n).withFetchWord 32 0x8) = .next t ∧ t.statusWord = 0x00008106#32)
      ∧ (∃ t, step ((State.resetWith p n).withFetchWord 32 0xB) = .next t ∧ t.statusWord = 0x0000B106#32)
      ∧ (∃ t, run 3 ((State.resetWith p n).withFetchWord 32 0x7) = .next t
          ∧ t.statusWord = 0x00007002#32
          ∧ t.bytesAt 0x050 16 =
              leBytes 16 (md5 (leBytes 16 (md5 ((List.range 8).map (fun k => Config.resetByte n (0x040 + k)))))))
      ∧ (∃ t, run 3 ((State.resetWith p n).withFetchWord 32 0xA) = .next t
          ∧ t.statusWord = 0x0000A002#32 ∧ t.textlen = 34#8
          ∧ t.bytesAt 0x050 16 =
              leBytes 16 (md5 (leBytes 16 (md5 ((List.range 8).map (fun k => Config.resetByte n (0x040 + k)))))))

/-! The codec. -/

/-- ALPHA and VAL in their arithmetic forms are the source's alphabet list and its inverse (41_codec.md R85, R86,
30_encoding.md R69). -/
def Obligations.AlphabetMapsAgree : Prop :=
  legacyAlphabet.length = 64
    ∧ (∀ v : Sextet, alpha v = symbolOf v ∧ symVal (alpha v) = some v)
    ∧ (∀ (c : Byte) (v : Sextet), symVal c = some v ↔ symbolOf v = c)
    ∧ ∀ c : Byte, symVal c = none ↔ c ∉ legacyAlphabet

/-- Group encode and group decode are inverse, and decode fails exactly on a byte outside the alphabet
(41_codec.md R88). -/
def Obligations.GroupRoundTrip : Prop :=
  (∀ b0 b1 b2 : Byte,
      decodeGroup (encodeGroup b0 b1 b2).1 (encodeGroup b0 b1 b2).2.1 (encodeGroup b0 b1 b2).2.2.1
        (encodeGroup b0 b1 b2).2.2.2 = some (b0, b1, b2))
    ∧ ∀ s0 s1 s2 s3 : Byte,
        (∀ b0 b1 b2, decodeGroup s0 s1 s2 s3 = some (b0, b1, b2) → encodeGroup b0 b1 b2 = (s0, s1, s2, s3))
          ∧ (decodeGroup s0 s1 s2 s3 = none ↔ ∃ c ∈ [s0, s1, s2, s3], c ∉ legacyAlphabet)

/-- ENC22 by groups is the bit table of 30_encoding.md R71: symbol i carries digest bits [6i+5:6i]. -/
def Obligations.DigestSymbolLayout : Prop :=
  ∀ D : BitVec 128, enc22 D = symbolsOfDigest D

/-- What DEC22 answers for every text: the check of every byte, then the length, then the digest and the discarded bits
(41_codec.md R90, R92). -/
def Obligations.DigestDecodeOutcomes : Prop :=
  ∀ t : List Byte,
    ((∃ c ∈ t, c ∉ legacyAlphabet) → dec22 t = .error .decodeFailure)
      ∧ ((∀ c ∈ t, c ∈ legacyAlphabet) → t.length ≠ 22 → dec22 t = .error .malformedDigest)
      ∧ ∀ vs D, vs.length = 22 → t = vs.map symbolOf → digestOfValues vs D →
          dec22 t = .ok (D, decide (4 ≤ (vs.getD 21 0#6).toNat))

/-- Encoding and decoding a digest field are inverse on canonical fields (41_codec.md R93). -/
def Obligations.DigestFieldRoundTrip : Prop :=
  (∀ D : BitVec 128, dec22 (enc22 D) = .ok (D, false))
    ∧ ∀ (t : List Byte) (D : BitVec 128), dec22 t = .ok (D, false) → enc22 D = t

/-- The source's right-to-left decoding gives the same digest as DEC22 on every 22-symbol field (41_codec.md R91). -/
def Obligations.RightToLeftDecodingAgrees : Prop :=
  ∀ vs : List Sextet, vs.length = 22 →
    ∃ D nc, dec22 (vs.map symbolOf) = .ok (D, nc) ∧ rightToLeftDigest vs = leBytes 16 D

/-- Parsing a serialized record gives its fields back, and a record that parses as canonical is the serialization of its
fields (44_record.md R138). -/
def Obligations.RecordRoundTrip : Prop :=
  (∀ (e : Sextet) (S : BitVec 64) (D : BitVec 128),
      parseRec (formatRec e S D) = .ok { exp := e, salt := S, digest := D, nonCanon := false })
    ∧ ∀ (t : List Byte) (r : Record), parseRec t = .ok r → r.nonCanon = false →
        formatRec r.exp r.salt r.digest = t

/-! MD5 and the iteration. -/

/-- The padded message: the message, 0x80, zeros, the bit length, in 64 * nb(L) bytes (43_md5_core.md R122). -/
def Obligations.PaddedMessage : Prop :=
  ∀ m : List Byte,
    (md5Pad m).length = 64 * ((m.length + 8) / 64 + 1)
      ∧ (md5Pad m).take m.length = m
      ∧ (md5Pad m)[m.length]? = some 0x80#8
      ∧ (∀ k, m.length < k → k + 8 < (md5Pad m).length → (md5Pad m)[k]? = some 0x00#8)
      ∧ leNat ((md5Pad m).drop ((md5Pad m).length - 8)) = 8 * m.length % 2 ^ 64

/-- The known answers that pin MD5 (43_md5_core.md R126). -/
def Obligations.Md5KnownAnswers : Prop :=
  leBytes 16 (md5 []) =
      [0xd4#8, 0x1d#8, 0x8c#8, 0xd9#8, 0x8f#8, 0x00#8, 0xb2#8, 0x04#8,
       0xe9#8, 0x80#8, 0x09#8, 0x98#8, 0xec#8, 0xf8#8, 0x42#8, 0x7e#8]
    ∧ leBytes 16 (md5 [0x61#8, 0x62#8, 0x63#8]) =
      [0x90#8, 0x01#8, 0x50#8, 0x98#8, 0x3c#8, 0xd2#8, 0x4f#8, 0xb0#8,
       0xd6#8, 0x96#8, 0x3f#8, 0x7d#8, 0x28#8, 0xe1#8, 0x7f#8, 0x72#8]
    ∧ leBytes 16 (md5 [0x6d#8, 0x65#8, 0x73#8, 0x73#8, 0x61#8, 0x67#8, 0x65#8, 0x20#8, 0x64#8, 0x69#8, 0x67#8, 0x65#8,
        0x73#8, 0x74#8]) =
      [0xf9#8, 0x6b#8, 0x69#8, 0x7d#8, 0x7c#8, 0xb7#8, 0x93#8, 0x8d#8,
       0x52#8, 0x5a#8, 0x2f#8, 0x31#8, 0xaa#8, 0xf1#8, 0x61#8, 0xd0#8]

/-- Raising the exponent by one doubles the chained applications: the checksum's chain goes on for 2^e more
(44_record.md R142, 42_checksum.md R101). -/
def Obligations.ExponentIncrementDoublesChain : Prop :=
  ∀ (P : List Byte) (S : BitVec 64) (e : Sextet), e.toNat < 63 →
    checksum P S (e + 1#6) = chainMd5 P (2 ^ e.toNat) (checksum P S e)
      ∧ checksum P S 0#6 = md5 (leBytes 16 (md5 (leBytes 8 S ++ P)) ++ P)

/-! The commands. -/

/-- SYM2VAL for every ARG (41_codec.md R95). -/
def Obligations.Sym2valResult : Prop :=
  decode 0x00000001#32 = .ok .sym2val
    ∧ ∀ s : State,
      (s.arg.extractLsb' 8 24 ≠ 0#24 →
          exec .sym2val s = .next { s with errcode := .badOperand, phase := .idle, done := true })
        ∧ ∀ c : Byte, s.arg = 0#24 ++ c →
            (c ∉ legacyAlphabet →
                exec .sym2val s = .next { s with errcode := .invalidCharacter, phase := .idle, done := true })
              ∧ ∀ v : Sextet, symbolOf v = c →
                  exec .sym2val s =
                    .next { s with result := 0#26 ++ v, errcode := .none, phase := .idle, done := true }

/-- VAL2SYM for every ARG (41_codec.md R96). -/
def Obligations.Val2symResult : Prop :=
  decode 0x00000002#32 = .ok .val2sym
    ∧ ∀ s : State,
      (s.arg.extractLsb' 6 26 ≠ 0#26 →
          exec .val2sym s = .next { s with errcode := .badOperand, phase := .idle, done := true })
        ∧ ∀ v : Sextet, s.arg = 0#26 ++ v →
            exec .val2sym s =
              .next { s with result := 0#24 ++ symbolOf v, errcode := .none, phase := .idle, done := true }

/-- ENCGRP for every ARG (41_codec.md R97). -/
def Obligations.EncgrpResult : Prop :=
  decode 0x00000003#32 = .ok .encgrp
    ∧ ∀ s : State,
      (s.arg.extractLsb' 24 8 ≠ 0#8 →
          exec .encgrp s = .next { s with errcode := .badOperand, phase := .idle, done := true })
        ∧ (s.arg.extractLsb' 24 8 = 0#8 →
            exec .encgrp s =
              .next { s with
                result := symbolOf (s.arg.extractLsb' 18 6) ++ symbolOf (s.arg.extractLsb' 12 6)
                  ++ symbolOf (s.arg.extractLsb' 6 6) ++ symbolOf (s.arg.extractLsb' 0 6)
                errcode := .none
                phase := .idle
                done := true })

/-- DECGRP for every ARG (41_codec.md R98). -/
def Obligations.DecgrpResult : Prop :=
  decode 0x00000004#32 = .ok .decgrp
    ∧ ∀ s : State,
      ((∃ k < 4, s.arg.extractLsb' (8 * k) 8 ∉ legacyAlphabet) →
          exec .decgrp s = .next { s with errcode := .invalidCharacter, phase := .idle, done := true })
        ∧ ((∀ k < 4, s.arg.extractLsb' (8 * k) 8 ∈ legacyAlphabet) →
            ∃ v0 v1 v2 v3 : Sextet, s.arg = symbolOf v3 ++ symbolOf v2 ++ symbolOf v1 ++ symbolOf v0
              ∧ exec .decgrp s =
                  .next { s with
                    result := 0#8 ++ v3 ++ v2 ++ v1 ++ v0
                    errcode := .none
                    phase := .idle
                    done := true })

/-- ENCDIG for every DIGEST; what it stores to TEXT and what it leaves (41_codec.md R99). -/
def Obligations.EncdigResult : Prop :=
  decode 0x00000005#32 = .ok .encdig
    ∧ ∀ (s : State) (D : BitVec 128), (∀ j < 16, byteOf D j = s.byteAt (0x050 + j)) →
      ∃ t, exec .encdig s = .next t
        ∧ t = { s with mem := t.mem, textlen := 22#8, errcode := .none, phase := .idle, done := true }
        ∧ t.bytesAt 0x080 22 = symbolsOfDigest D
        ∧ ∀ a, a < 0x080 ∨ 0x080 + 22 ≤ a → t.byteAt a = s.byteAt a

/-- DECDIG for every TEXTLEN and TEXT; what it stores to DIGEST and what it leaves (41_codec.md R100). -/
def Obligations.DecdigResult : Prop :=
  decode 0x00000006#32 = .ok .decdig
    ∧ ∀ s : State,
      (s.params.textBufLen < s.textlen.toNat →
          exec .decdig s = .next { s with errcode := .badOperand, phase := .idle, done := true })
        ∧ (s.textlen.toNat ≤ s.params.textBufLen →
            ((∃ c ∈ s.bytesAt 0x080 s.textlen.toNat, c ∉ legacyAlphabet) →
                exec .decdig s = .next { s with errcode := .decodeFailure, phase := .idle, done := true })
              ∧ ((∀ c ∈ s.bytesAt 0x080 s.textlen.toNat, c ∈ legacyAlphabet) → s.textlen ≠ 22#8 →
                  exec .decdig s = .next { s with errcode := .malformedDigest, phase := .idle, done := true })
              ∧ ((∀ c ∈ s.bytesAt 0x080 s.textlen.toNat, c ∈ legacyAlphabet) → s.textlen = 22#8 →
                  ∃ vs D t, s.bytesAt 0x080 22 = vs.map symbolOf ∧ digestOfValues vs D ∧ exec .decdig s = .next t
                    ∧ t = { s with
                        mem := t.mem
                        noncanon := decide (4 ≤ (vs.getD 21 0#6).toNat)
                        errcode := .none
                        phase := .idle
                        done := true }
                    ∧ t.bytesAt 0x050 16 = leBytes 16 D
                    ∧ ∀ a, a < 0x050 ∨ 0x050 + 16 ≤ a → t.byteAt a = s.byteAt a))

/-- The SETUP micro-step of CHKSUM and GENERATE: BAD_OPERAND, or ITER, H and the phase are loaded (42_checksum.md R106,
R110, 44_record.md R135). -/
def Obligations.HashCommandSetup : Prop :=
  ∀ (s : State) (i : Instr), i = .chksum ∨ i = .generate → s.phase = .setup →
    (s.params.pwBufLen < s.pwlen.toNat →
        exec i s = .next { s with errcode := .badOperand, phase := .idle, done := true })
      ∧ (s.pwlen.toNat ≤ s.params.pwBufLen →
          exec i s =
            .next { s with
              iter := BitVec.ofNat 64 (2 ^ s.exp.toNat)
              h := md5 (s.bytesAt 0x040 8 ++ s.bytesAt 0x100 s.pwlen.toNat)
              phase := .chain })

/-- The CHAIN micro-step of the hash commands while ITER is not 0: one chained MD5 application (42_checksum.md R107). -/
def Obligations.HashCommandChainStep : Prop :=
  ∀ (s : State) (i : Instr), i = .chksum ∨ i = .generate ∨ i = .verify → s.phase = .chain → s.iter ≠ 0#64 →
    exec i s =
        .next { s with
          h := md5 (leBytes 16 s.h ++ s.bytesAt 0x100 s.pwlen.toNat)
          iter := BitVec.ofNat 64 (s.iter.toNat - 1) }

/-- CHKSUM's finishing micro-step: H to DIGEST, and what it leaves (42_checksum.md R110). -/
def Obligations.ChksumFinish : Prop :=
  ∀ s : State, s.phase = .chain → s.iter = 0#64 →
    ∃ t, exec .chksum s = .next t
      ∧ t = { s with mem := t.mem, errcode := .none, phase := .idle, done := true }
      ∧ t.bytesAt 0x050 16 = leBytes 16 s.h
      ∧ ∀ a, a < 0x050 ∨ 0x050 + 16 ≤ a → t.byteAt a = s.byteAt a

/-- GENERATE's finishing micro-step: H to DIGEST, the record to TEXT, and what it leaves (44_record.md R135). -/
def Obligations.GenerateFinish : Prop :=
  ∀ s : State, s.phase = .chain → s.iter = 0#64 →
    ∃ t, exec .generate s = .next t
      ∧ t = { s with mem := t.mem, textlen := 34#8, errcode := .none, phase := .idle, done := true }
      ∧ t.bytesAt 0x050 16 = leBytes 16 s.h
      ∧ t.bytesAt 0x080 34 =
          [0x24#8, 0x50#8, 0x24#8, symbolOf s.exp] ++ s.bytesAt 0x040 8 ++ symbolsOfDigest s.h
      ∧ ∀ a, a < 0x050 ∨ (0x050 + 16 ≤ a ∧ a < 0x080) ∨ 0x080 + 34 ≤ a → t.byteAt a = s.byteAt a

/-- VERIFY's SETUP micro-step for every operand: BAD_OPERAND, the parse codes, or the latches and the hash start
(44_record.md R136). -/
def Obligations.VerifySetup : Prop :=
  ∀ s : State, s.phase = .setup →
    (s.params.textBufLen < s.textlen.toNat ∨ s.params.pwBufLen < s.pwlen.toNat →
        exec .verify s = .next { s with errcode := .badOperand, phase := .idle, done := true })
      ∧ (s.textlen.toNat ≤ s.params.textBufLen → s.pwlen.toNat ≤ s.params.pwBufLen →
          (∀ c, recordFailure (s.bytesAt 0x080 s.textlen.toNat) = some c →
              exec .verify s = .next { s with errcode := c, phase := .idle, done := true })
            ∧ (recordFailure (s.bytesAt 0x080 s.textlen.toNat) = none →
                ∃ e S vs D, S.length = 8 ∧ vs.length = 22
                  ∧ s.bytesAt 0x080 s.textlen.toNat = recordText e S vs ∧ digestOfValues vs D
                  ∧ exec .verify s =
                      .next { s with
                        pe := e
                        ps := leVec 64 S
                        pd := D
                        pnc := decide (4 ≤ (vs.getD 21 0#6).toNat)
                        iter := BitVec.ofNat 64 (2 ^ e.toNat)
                        h := md5 (S ++ s.bytesAt 0x100 s.pwlen.toNat)
                        phase := .chain }))

/-- VERIFY's finishing micro-step: the comparison of all 16 bytes, MATCH and NONCANON on code 0 and on code 6
(44_record.md R136, R137). -/
def Obligations.VerifyFinish : Prop :=
  ∀ s : State, s.phase = .chain → s.iter = 0#64 →
    ((∀ j < 16, byteOf s.h j = byteOf s.pd j) →
        exec .verify s =
          .next { s with verMatch := true, noncanon := s.pnc, errcode := .none, phase := .idle, done := true })
      ∧ ((∃ j < 16, byteOf s.h j ≠ byteOf s.pd j) →
          exec .verify s =
            .next { s with
              verMatch := false
              noncanon := s.pnc
              errcode := .verificationFailure
              phase := .idle
              done := true })

/-- PARSE for every TEXTLEN and TEXT; what it stores to SALT and DIGEST and what it leaves (44_record.md R133). -/
def Obligations.ParseResult : Prop :=
  decode 0x00000008#32 = .ok .parse
    ∧ ∀ s : State,
      (s.params.textBufLen < s.textlen.toNat →
          exec .parse s = .next { s with errcode := .badOperand, phase := .idle, done := true })
        ∧ (s.textlen.toNat ≤ s.params.textBufLen →
            (∀ c, recordFailure (s.bytesAt 0x080 s.textlen.toNat) = some c →
                exec .parse s = .next { s with errcode := c, phase := .idle, done := true })
              ∧ (recordFailure (s.bytesAt 0x080 s.textlen.toNat) = none →
                  ∃ e S vs D t, S.length = 8 ∧ vs.length = 22
                    ∧ s.bytesAt 0x080 s.textlen.toNat = recordText e S vs ∧ digestOfValues vs D
                    ∧ exec .parse s = .next t
                    ∧ t = { s with
                        mem := t.mem
                        exp := e
                        noncanon := decide (4 ≤ (vs.getD 21 0#6).toNat)
                        errcode := .none
                        phase := .idle
                        done := true }
                    ∧ t.bytesAt 0x040 8 = S
                    ∧ t.bytesAt 0x050 16 = leBytes 16 D
                    ∧ ∀ a, a < 0x040 ∨ (0x040 + 8 ≤ a ∧ a < 0x050) ∨ 0x050 + 16 ≤ a → t.byteAt a = s.byteAt a))

/-- FORMAT for every EXP, SALT and DIGEST; what it stores to TEXT and what it leaves (44_record.md R134). -/
def Obligations.FormatResult : Prop :=
  decode 0x00000009#32 = .ok .format
    ∧ ∀ (s : State) (D : BitVec 128), (∀ j < 16, byteOf D j = s.byteAt (0x050 + j)) →
      ∃ t, exec .format s = .next t
        ∧ t = { s with mem := t.mem, textlen := 34#8, errcode := .none, phase := .idle, done := true }
        ∧ t.bytesAt 0x080 34 =
            [0x24#8, 0x50#8, 0x24#8, symbolOf s.exp] ++ s.bytesAt 0x040 8 ++ symbolsOfDigest D
        ∧ ∀ a, a < 0x080 ∨ 0x080 + 34 ≤ a → t.byteAt a = s.byteAt a

/-! Whole commands. -/

/-- An accepted CHKSUM, left alone, takes exactly 2^e + 2 micro-steps and leaves the checksum in DIGEST
(42_checksum.md R107, R110, 70_reset_and_hazards.md R172). Left alone means that no turn is given, so that every
step takes the default turn, the model's choice (log 1). -/
def Obligations.ChksumRun : Prop :=
  ∀ s : State, s.inReset = false → s.inputs = [] → s.phase = .setup → s.opl = encode .chksum →
    s.pwlen.toNat ≤ s.params.pwBufLen →
    (∀ n < 2 ^ s.exp.toNat + 2, ∃ u, run n s = .next u ∧ u.busy = true ∧ u.mem = s.mem)
      ∧ ∃ t, run (2 ^ s.exp.toNat + 2) s = .next t
        ∧ t = { s with
            mem := t.mem
            iter := 0#64
            h := checksum s.password s.salt s.exp
            errcode := .none
            phase := .idle
            done := true }
        ∧ t.bytesAt 0x050 16 = leBytes 16 (checksum s.password s.salt s.exp)
        ∧ ∀ a, a < 0x050 ∨ 0x050 + 16 ≤ a → t.byteAt a = s.byteAt a

/-- An accepted GENERATE, left alone, takes exactly 2^e + 2 micro-steps and leaves the checksum in DIGEST and the record
in TEXT (44_record.md R135, 70_reset_and_hazards.md R172). Left alone means that no turn is given, so that every
step takes the default turn, the model's choice (log 1). -/
def Obligations.GenerateRun : Prop :=
  ∀ s : State, s.inReset = false → s.inputs = [] → s.phase = .setup → s.opl = encode .generate →
    s.pwlen.toNat ≤ s.params.pwBufLen →
    (∀ n < 2 ^ s.exp.toNat + 2, ∃ u, run n s = .next u ∧ u.busy = true ∧ u.mem = s.mem)
      ∧ ∃ t, run (2 ^ s.exp.toNat + 2) s = .next t
        ∧ t = { s with
            mem := t.mem
            textlen := 34#8
            iter := 0#64
            h := checksum s.password s.salt s.exp
            errcode := .none
            phase := .idle
            done := true }
        ∧ t.bytesAt 0x050 16 = leBytes 16 (checksum s.password s.salt s.exp)
        ∧ t.bytesAt 0x080 34 =
            [0x24#8, 0x50#8, 0x24#8, symbolOf s.exp] ++ s.bytesAt 0x040 8
              ++ symbolsOfDigest (checksum s.password s.salt s.exp)
        ∧ ∀ a, a < 0x050 ∨ (0x050 + 16 ≤ a ∧ a < 0x080) ∨ 0x080 + 34 ≤ a → t.byteAt a = s.byteAt a

/-- An accepted VERIFY of a record that parses, left alone, takes exactly 2^e + 2 micro-steps and compares the checksum
with the record's digest (44_record.md R136, R137, 70_reset_and_hazards.md R172). Left alone means that no turn is given, so that every
step takes the default turn, the model's choice (log 1). -/
def Obligations.VerifyRun : Prop :=
  ∀ (s : State) (e : Sextet) (S : List Byte) (vs : List Sextet) (D : BitVec 128),
    s.inReset = false → s.inputs = [] → s.phase = .setup → s.opl = encode .verify →
    s.textlen.toNat ≤ s.params.textBufLen → s.pwlen.toNat ≤ s.params.pwBufLen →
    S.length = 8 → vs.length = 22 → s.text = recordText e S vs → digestOfValues vs D →
    (∀ n < 2 ^ e.toNat + 2, ∃ u, run n s = .next u ∧ u.busy = true)
      ∧ run (2 ^ e.toNat + 2) s =
          .next { s with
            pe := e
            ps := leVec 64 S
            pd := D
            pnc := decide (4 ≤ (vs.getD 21 0#6).toNat)
            iter := 0#64
            h := checksum s.password (leVec 64 S) e
            noncanon := decide (4 ≤ (vs.getD 21 0#6).toNat)
            verMatch := decide (checksum s.password (leVec 64 S) e = D)
            errcode := if checksum s.password (leVec 64 S) e = D then .none else .verificationFailure
            phase := .idle
            done := true }

/-- A GENERATE followed by a PARSE of its text gives the fields back, and followed by a VERIFY with the same password
succeeds (44_record.md R138, R139). The GENERATE is left alone, and so is each command after the
write that starts it: every step takes the default turn, the model's choice (log 1). -/
def Obligations.GenerateThenParseAndVerify : Prop :=
  ∀ (s : State) (a : Nat), s.params.legal → s.inReset = false → s.inputs = [] → s.phase = .setup →
    s.opl = encode .generate → s.pwlen.toNat ≤ s.params.pwBufLen → windowOffset a = 0x00C →
    ∃ t, run (2 ^ s.exp.toNat + 2) s = .next t
      ∧ (∃ u, run 2 { t with inputs := [busWrite a (encode .parse)] } = .next u
          ∧ u.phase = .idle ∧ u.done = true ∧ u.errcode = .none ∧ u.noncanon = false
          ∧ u.exp = s.exp ∧ u.bytesAt 0x040 8 = s.bytesAt 0x040 8
          ∧ u.bytesAt 0x050 16 = leBytes 16 (checksum s.password s.salt s.exp))
      ∧ ∃ u, run (2 ^ s.exp.toNat + 3) { t with inputs := [busWrite a (encode .verify)] }
            = .next u
          ∧ u.phase = .idle ∧ u.done = true ∧ u.errcode = .none ∧ u.verMatch = true ∧ u.noncanon = false

/-- Every running command ends, left alone, after at most 2^63 + 2 micro-steps (70_reset_and_hazards.md R172). Left alone means that no turn is given, so that every
step takes the default turn, the model's choice (log 1). -/
def Obligations.EveryCommandEnds : Prop :=
  ∀ s : State, s.Inv → s.inReset = false → s.inputs = [] → s.busy = true →
    ∃ n t, n ≤ 2 ^ 63 + 2 ∧ run n s = .next t ∧ t.phase = .idle ∧ t.done = true

/-! Invariants and frames of the whole machine. -/

/-- Every step, whichever agent takes it, keeps the invariant of the control state and the buffers. That the invariant
has DONE 0 throughout a busy phase, after a dropped CMD write too, against the last sentence of 70_reset_and_hazards.md
R167, is the model's choice (log 16); the canonical form of the memory list is too (log 13). -/
def Obligations.StepKeepsInv : Prop :=
  ∀ s t : State, s.Inv → step s = .next t → t.Inv

/-- Every step, whichever agent takes it, keeps the invariant of the hash pipeline (42_checksum.md R107, R112). -/
def Obligations.StepKeepsHashInv : Prop :=
  ∀ s t : State, s.HashInv → step s = .next t → t.HashInv

/-- The state after reset has both invariants, for every legal instance; State.reset is the spec's own. -/
def Obligations.ResetSatisfiesInvariants : Prop :=
  (∀ (p : Params) (n : Nat), p.legal → (State.resetWith p n).Inv ∧ (State.resetWith p n).HashInv)
    ∧ State.reset.Inv ∧ State.reset.HashInv

/-- Whatever the host did meanwhile, the finishing micro-step of a hash command delivers the function of its operands
(42_checksum.md R112, 40_command_protocol.md R79). -/
def Obligations.ChainResultUnderInterleaving : Prop :=
  ∀ (s : State) (rest : List Turn), s.HashInv → s.inReset = false → s.phase = .chain → s.iter = 0#64 →
    s.inputs = .sequencer :: rest →
    (s.opl = encode .chksum →
        ∃ t, step s = .next t ∧ t.phase = .idle ∧ t.errcode = .none
          ∧ t.bytesAt 0x050 16 = leBytes 16 (checksum s.password s.salt s.exp))
      ∧ (s.opl = encode .generate →
          ∃ t, step s = .next t ∧ t.phase = .idle ∧ t.errcode = .none
            ∧ t.bytesAt 0x050 16 = leBytes 16 (checksum s.password s.salt s.exp)
            ∧ t.bytesAt 0x080 34 =
                [0x24#8, 0x50#8, 0x24#8, symbolOf s.exp] ++ s.bytesAt 0x040 8
                  ++ symbolsOfDigest (checksum s.password s.salt s.exp))
      ∧ (s.opl = encode .verify →
          ∃ t e S vs D, s.text = recordText e S vs ∧ S.length = 8 ∧ vs.length = 22 ∧ digestOfValues vs D
            ∧ step s = .next t ∧ t.phase = .idle
            ∧ t.verMatch = decide (checksum s.password (leVec 64 S) e = D)
            ∧ t.errcode = if checksum s.password (leVec 64 S) e = D then .none else .verificationFailure)

/-- No host transaction changes what a running command reads or where it stands, but for an abort
(40_command_protocol.md R79, R80). -/
def Obligations.HostTransactionsKeepInputs : Prop :=
  ∀ (s : State) (x : Txn) (rest : List Turn), s.busy = true → s.inputs = .bus x :: rest →
    ∃ t, step s = .next t
      ∧ t = { s with
          inputs := rest
          port := t.port
          irqEn := t.irqEn
          done := t.done
          cmdOvr := t.cmdOvr
          wrIgn := t.wrIgn
          errcode := t.errcode
          phase := t.phase }
      ∧ ((t.phase = s.phase ∧ t.errcode = s.errcode)
          ∨ (t.phase = .idle ∧ t.errcode = .aborted ∧ t.done = true ∧ windowOffset x.addr = 0x008
              ∧ ∃ w, x.access = .write w ∧ w.getLsbD 0 = true))

/-- A command that ends with a code other than 0, and other than 6 for VERIFY, writes none of its outputs
(40_command_protocol.md R78). -/
def Obligations.NoPartialResults : Prop :=
  ∀ (s : State) (i : Instr), ∃ t, exec i s = .next t
    ∧ (t.phase = .idle → t.errcode ≠ .none →
        (i = .verify ∧ t.errcode = .verificationFailure)
          ∨ t = { s with errcode := t.errcode, phase := .idle, done := true })

/-- VERIFY never writes EXP, SALT, DIGEST, TEXT, TEXTLEN, PWLEN or PW: whichever its micro-step, only MATCH, NONCANON,
ERRCODE, DONE, ITER, the phase, H and the hidden latches can change (44_record.md R141). -/
def Obligations.VerifyLeavesRecordFields : Prop :=
  ∀ s : State, ∃ t, exec .verify s = .next t
    ∧ t = { s with
        verMatch := t.verMatch
        noncanon := t.noncanon
        errcode := t.errcode
        done := t.done
        iter := t.iter
        phase := t.phase
        h := t.h
        pe := t.pe
        ps := t.ps
        pd := t.pd
        pnc := t.pnc }
    ∧ t.exp = s.exp ∧ t.textlen = s.textlen ∧ t.pwlen = s.pwlen ∧ ∀ a, t.byteAt a = s.byteAt a

/-- Where the invariant holds and no host program runs, every step answers a next state: no command and no transaction
stops the machine (60_exceptions.md R143). -/
def Obligations.ProgressWithoutHostProgram : Prop :=
  ∀ s : State, s.Inv → s.host.prog = [] → ∃ t, step s = .next t

/-- What each line of the host program notation does, in terms of the bus turns it makes, for every value it may hold, and
the lines the pseudo-instructions expand to (30_encoding.md R68). That ABORT's IRQ_EN is the one CTRL holds when the line
runs, the numbering of names and labels, and what a line costs in turns are the model's choice (log 9). -/
def Obligations.HostNotation : Prop :=
  (∀ (s : State) (rest : List Turn) (line : HostLine), s.inputs = .host :: rest →
    s.host.prog[s.host.place]? = some line →
    (∀ off v w t, line = .wr off v → v.standsFor s w →
        step { s with inputs := busWrite (s.params.base + off) w :: rest } = .next t →
        step s = .next { t with host := { s.host with place := s.host.place + 1 } })
      ∧ (∀ off n t, line = .rd off n →
          step { s with inputs := busRead (s.params.base + off) :: rest } = .next t →
          ∃ vars, step s = .next { t with host := { s.host with place := s.host.place + 1, vars := vars } }
            ∧ lookupVar vars n = some t.port.value
            ∧ ∀ m, m ≠ n → lookupVar vars m = lookupVar s.host.vars m)
      ∧ (∀ off mask v w t, line = .poll off mask v → v.standsFor s w →
          step { s with inputs := busRead (s.params.base + off) :: rest } = .next t →
          (t.port.value &&& mask = w →
              step s = .next { t with host := { s.host with place := s.host.place + 1 } })
            ∧ (t.port.value &&& mask ≠ w → step s = .next t))
      ∧ (∀ l, line = .label l →
          step s = .next { s with inputs := rest, host := { s.host with place := s.host.place + 1 } })
      ∧ (∀ n mask v l x w, line = .bne n mask v l → lookupVar s.host.vars n = some x → v.standsFor s w →
          (x &&& mask = w →
              step s = .next { s with inputs := rest, host := { s.host with place := s.host.place + 1 } })
            ∧ ∀ k, x &&& mask ≠ w → s.host.prog[k]? = some (.label l) →
                (∀ j < k, s.host.prog[j]? ≠ some (.label l)) →
                step s = .next { s with inputs := rest, host := { s.host with place := k } }))
    ∧ (∀ i, hostCmd i = [.wr 0x00C (.lit (encode i))])
    ∧ hostWaitDone = [.poll 0x010 0x00000003#32 (.lit 0x00000002#32)]
    ∧ hostAbort = [.wr 0x008 .keepIrqEn]
    ∧ [Buffer.salt, .digest, .text, .pw].map Buffer.base = [0x040, 0x050, 0x080, 0x100]
    ∧ ∀ (buf : Buffer) (bytes : List Byte),
        (hostLoad buf bytes).length = (bytes.length + 3) / 4
          ∧ ∀ k < (bytes.length + 3) / 4, ∃ w,
              (hostLoad buf bytes)[k]? = some (.wr (buf.base + 4 * k) (.lit w))
                ∧ ∀ j < 4, w.extractLsb' (8 * j) 8 = bytes.getD (4 * k + j) 0x00#8
end

