-- ==== Sys2Proof/Laws/Bits.lean ====
section
/-! SUPPORT. The little-endian readings of Machine/Bits.lean are inverse to each other. -/

namespace Sys2Proof

@[simp] theorem leBytes_length {w : Nat} (n : Nat) (x : BitVec w) : (leBytes n x).length = n := by
  simp [leBytes]

theorem leBytes_getElem? {w : Nat} (n : Nat) (x : BitVec w) (k : Nat) :
    (leBytes n x)[k]? = if k < n then some (byteOf x k) else none := by
  by_cases h : k < n <;> simp [leBytes, h]

theorem leNat_lt (bs : List Byte) : leNat bs < 2 ^ (8 * bs.length) := by
  induction bs with
  | nil => simp [leNat]
  | cons b bs ih =>
    have hb := b.isLt
    have hp : 2 ^ (8 * (b :: bs).length) = 256 * 2 ^ (8 * bs.length) := by
      rw [List.length_cons, Nat.mul_add, Nat.pow_add]; norm_num [Nat.mul_comm]
    rw [hp, leNat]
    omega

theorem leNat_append (as bs : List Byte) : leNat (as ++ bs) = leNat as + 2 ^ (8 * as.length) * leNat bs := by
  induction as with
  | nil => simp [leNat]
  | cons a as ih =>
    have hp : 2 ^ (8 * (a :: as).length) = 256 * 2 ^ (8 * as.length) := by
      rw [List.length_cons, Nat.mul_add, Nat.pow_add]; norm_num [Nat.mul_comm]
    rw [List.cons_append, leNat, leNat, ih, hp]
    ring

theorem byteOf_toNat {w : Nat} (x : BitVec w) (k : Nat) : (byteOf x k).toNat = x.toNat / 2 ^ (8 * k) % 2 ^ 8 := by
  simp [byteOf, BitVec.extractLsb'_toNat, Nat.shiftRight_eq_div_pow]

/-- The first n bytes of a value, read back, are its low 8n bits. -/
theorem leNat_leBytes {w : Nat} (n : Nat) (x : BitVec w) : leNat (leBytes n x) = x.toNat % 2 ^ (8 * n) := by
  induction n with
  | zero => simp [leBytes, leNat, Nat.mod_one]
  | succ n ih =>
    have hs : leBytes (n + 1) x = leBytes n x ++ [byteOf x n] := by simp [leBytes, List.range_succ]
    rw [hs, leNat_append, ih, leBytes_length, Nat.mul_add, Nat.pow_add, Nat.mod_mul]
    simp [leNat, byteOf_toNat]

/-- A value is read back from its bytes. -/
theorem leVec_leBytes {w n : Nat} (x : BitVec w) (h : w ≤ 8 * n) : leVec w (leBytes n x) = x := by
  apply BitVec.eq_of_toNat_eq
  have hx : x.toNat < 2 ^ (8 * n) := lt_of_lt_of_le x.isLt (Nat.pow_le_pow_right (by omega) h)
  rw [leVec, BitVec.toNat_ofNat, leNat_leBytes, Nat.mod_eq_of_lt hx, Nat.mod_eq_of_lt x.isLt]

/-- Byte k of a byte sequence read as a value is its k-th byte. -/
theorem byteOf_leVec {w : Nat} (bs : List Byte) (h : 8 * bs.length ≤ w) (k : Nat) (hk : k < bs.length) :
    byteOf (leVec w bs) k = bs[k] := by
  apply BitVec.eq_of_toNat_eq
  have hw : leNat bs < 2 ^ w := lt_of_lt_of_le (leNat_lt bs) (Nat.pow_le_pow_right (by omega) h)
  rw [byteOf_toNat, leVec, BitVec.toNat_ofNat, Nat.mod_eq_of_lt hw]
  clear hw h
  induction bs generalizing k with
  | nil => simp at hk
  | cons b bs ih =>
    have hb := b.isLt
    cases k with
    | zero => simp only [leNat, Nat.mul_zero, Nat.pow_zero, Nat.div_one, List.getElem_cons_zero]; omega
    | succ k =>
      have hp : 2 ^ (8 * (k + 1)) = 256 * 2 ^ (8 * k) := by rw [Nat.mul_add, Nat.pow_add]; norm_num [Nat.mul_comm]
      rw [hp, ← Nat.div_div_eq_div_mul, leNat, List.getElem_cons_succ, ← ih k (by simpa using hk)]
      congr 2
      omega

/-- A byte sequence is read back from its value. -/
theorem leBytes_leVec {w : Nat} (bs : List Byte) (h : 8 * bs.length ≤ w) : leBytes bs.length (leVec w bs) = bs := by
  apply List.ext_getElem
  · simp
  · intro k h1 h2
    simp only [leBytes, List.getElem_map, List.getElem_range]
    exact byteOf_leVec bs h k h2

end Sys2Proof
end

