-- ==== Sys2Proof/Laws/Codec.lean ====
section
/-! SUPPORT. What the codec, the record parser and the record serializer can answer. -/

namespace Sys2Proof.Machine

@[simp] theorem groupText_length (b0 b1 b2 : Byte) : (groupText b0 b1 b2).length = 4 := rfl

/-- ENC22 always gives 22 symbols (41_codec.md R89). -/
@[simp] theorem enc22_length (d : BitVec 128) : (enc22 d).length = 22 := by simp [enc22, List.range_succ]

/-- The serializer always gives 34 bytes (44_record.md R140). -/
@[simp] theorem formatRec_length (e : Sextet) (S : BitVec 64) (d : BitVec 128) : (formatRec e S d).length = 34 := by
  simp [formatRec, recordIdentifier]

theorem textValues_length {t : List Byte} {vs : List Sextet} (h : textValues t = some vs) :
    vs.length = t.length := by
  induction t generalizing vs with
  | nil => simp [textValues] at h; simp [h]
  | cons c t ih =>
    simp only [textValues] at h
    split at h
    · rename_i v ws hv hws
      simp at h
      simp [← h, ih hws]
    · simp at h

/-- The byte count of n symbols is 16 exactly when n is 22 (41_codec.md R90). -/
theorem byteCount_iff (n : Nat) : 6 * n / 8 = 16 ↔ n = 22 := by omega

/-- Everything DEC22 can answer (41_codec.md R90). -/
theorem dec22_cases (t : List Byte) :
    (textValues t = none ∧ dec22 t = .error .decodeFailure)
      ∨ (∃ vs, textValues t = some vs ∧ t.length ≠ 22 ∧ dec22 t = .error .malformedDigest)
      ∨ (∃ vs, textValues t = some vs ∧ vs.length = 22 ∧ t.length = 22
          ∧ dec22 t = .ok (BitVec.ofNat 128 (fieldValue vs), decide (fieldValue vs / 2 ^ 128 % 2 ^ 4 ≠ 0))) := by
  unfold dec22
  cases hv : textValues t with
  | none => exact .inl ⟨rfl, rfl⟩
  | some vs =>
    by_cases h : t.length = 22
    · refine .inr (.inr ⟨vs, rfl, by rw [textValues_length hv, h], h, ?_⟩)
      simp only [h]; rfl
    · refine .inr (.inl ⟨vs, rfl, h, ?_⟩)
      have : 6 * t.length / 8 ≠ 16 := by omega
      simp only [ne_eq, this, not_false_eq_true, if_true]

/-- Everything the record parser can answer (44_record.md R128). -/
theorem parseRec_cases (t : List Byte) :
    (t.length < 34 ∧ parseRec t = .error .oldFormat)
      ∨ (34 ≤ t.length ∧ t.take 3 ≠ recordIdentifier ∧ parseRec t = .error .invalidIdentifier)
      ∨ (34 ≤ t.length ∧ t.take 3 = recordIdentifier ∧ symVal (t.getD 3 0x00#8) = none
          ∧ parseRec t = .error .invalidIterationCount)
      ∨ (34 ≤ t.length ∧ t.take 3 = recordIdentifier ∧ ∃ e c, symVal (t.getD 3 0x00#8) = some e
          ∧ dec22 (t.drop 12) = .error c ∧ parseRec t = .error c)
      ∨ (34 ≤ t.length ∧ t.take 3 = recordIdentifier ∧ ∃ e d nc, symVal (t.getD 3 0x00#8) = some e
          ∧ dec22 (t.drop 12) = .ok (d, nc)
          ∧ parseRec t = .ok { exp := e, salt := leVec 64 ((t.drop 4).take 8), digest := d, nonCanon := nc }) := by
  unfold parseRec
  by_cases h1 : t.length < 34
  · simp [h1]
  · by_cases h2 : t.take 3 = recordIdentifier
    · cases h3 : symVal (t.getD 3 0x00#8) with
      | none => simp [h1, h2, not_lt.mp h1]
      | some e =>
        cases h4 : dec22 (t.drop 12) with
        | error c => simp [h1, h2, not_lt.mp h1]
        | ok r => simp [h1, h2, not_lt.mp h1]
    · simp [h1, h2, not_lt.mp h1]

end Sys2Proof.Machine
end

