-- ==== Sys2Proof/Laws/State.lean ====
section
/-! SUPPORT. The fields of State after each named update, one lemma per field per update. -/

namespace Sys2Proof.Machine

/-! The update `accept`. -/

@[simp] theorem accept_params (w : Word) (s : State) : (accept w s).params = s.params := rfl
@[simp] theorem accept_epoch (w : Word) (s : State) : (accept w s).epoch = s.epoch := rfl
@[simp] theorem accept_inReset (w : Word) (s : State) : (accept w s).inReset = s.inReset := rfl
@[simp] theorem accept_irqEn (w : Word) (s : State) : (accept w s).irqEn = s.irqEn := rfl
@[simp] theorem accept_done (w : Word) (s : State) : (accept w s).done = false := rfl
@[simp] theorem accept_verMatch (w : Word) (s : State) : (accept w s).verMatch = false := rfl
@[simp] theorem accept_noncanon (w : Word) (s : State) : (accept w s).noncanon = false := rfl
@[simp] theorem accept_cmdOvr (w : Word) (s : State) : (accept w s).cmdOvr = s.cmdOvr := rfl
@[simp] theorem accept_wrIgn (w : Word) (s : State) : (accept w s).wrIgn = s.wrIgn := rfl
@[simp] theorem accept_errcode (w : Word) (s : State) : (accept w s).errcode = .none := rfl
@[simp] theorem accept_lastop (w : Word) (s : State) : (accept w s).lastop = w.extractLsb' 0 4 := rfl
@[simp] theorem accept_arg (w : Word) (s : State) : (accept w s).arg = s.arg := rfl
@[simp] theorem accept_result (w : Word) (s : State) : (accept w s).result = s.result := rfl
@[simp] theorem accept_exp (w : Word) (s : State) : (accept w s).exp = s.exp := rfl
@[simp] theorem accept_pwlen (w : Word) (s : State) : (accept w s).pwlen = s.pwlen := rfl
@[simp] theorem accept_textlen (w : Word) (s : State) : (accept w s).textlen = s.textlen := rfl
@[simp] theorem accept_iter (w : Word) (s : State) : (accept w s).iter = s.iter := rfl
@[simp] theorem accept_mem (w : Word) (s : State) : (accept w s).mem = s.mem := rfl
@[simp] theorem accept_phase (w : Word) (s : State) : (accept w s).phase = .setup := rfl
@[simp] theorem accept_opl (w : Word) (s : State) : (accept w s).opl = w := rfl
@[simp] theorem accept_h (w : Word) (s : State) : (accept w s).h = s.h := rfl
@[simp] theorem accept_pe (w : Word) (s : State) : (accept w s).pe = s.pe := rfl
@[simp] theorem accept_ps (w : Word) (s : State) : (accept w s).ps = s.ps := rfl
@[simp] theorem accept_pd (w : Word) (s : State) : (accept w s).pd = s.pd := rfl
@[simp] theorem accept_pnc (w : Word) (s : State) : (accept w s).pnc = s.pnc := rfl
@[simp] theorem accept_port (w : Word) (s : State) : (accept w s).port = s.port := rfl
@[simp] theorem accept_inputs (w : Word) (s : State) : (accept w s).inputs = s.inputs := rfl
@[simp] theorem accept_host (w : Word) (s : State) : (accept w s).host = s.host := rfl

/-! The update `complete`. -/

@[simp] theorem complete_params (c : Code) (s : State) : (complete c s).params = s.params := rfl
@[simp] theorem complete_epoch (c : Code) (s : State) : (complete c s).epoch = s.epoch := rfl
@[simp] theorem complete_inReset (c : Code) (s : State) : (complete c s).inReset = s.inReset := rfl
@[simp] theorem complete_irqEn (c : Code) (s : State) : (complete c s).irqEn = s.irqEn := rfl
@[simp] theorem complete_done (c : Code) (s : State) : (complete c s).done = true := rfl
@[simp] theorem complete_verMatch (c : Code) (s : State) : (complete c s).verMatch = s.verMatch := rfl
@[simp] theorem complete_noncanon (c : Code) (s : State) : (complete c s).noncanon = s.noncanon := rfl
@[simp] theorem complete_cmdOvr (c : Code) (s : State) : (complete c s).cmdOvr = s.cmdOvr := rfl
@[simp] theorem complete_wrIgn (c : Code) (s : State) : (complete c s).wrIgn = s.wrIgn := rfl
@[simp] theorem complete_errcode (c : Code) (s : State) : (complete c s).errcode = c := rfl
@[simp] theorem complete_lastop (c : Code) (s : State) : (complete c s).lastop = s.lastop := rfl
@[simp] theorem complete_arg (c : Code) (s : State) : (complete c s).arg = s.arg := rfl
@[simp] theorem complete_result (c : Code) (s : State) : (complete c s).result = s.result := rfl
@[simp] theorem complete_exp (c : Code) (s : State) : (complete c s).exp = s.exp := rfl
@[simp] theorem complete_pwlen (c : Code) (s : State) : (complete c s).pwlen = s.pwlen := rfl
@[simp] theorem complete_textlen (c : Code) (s : State) : (complete c s).textlen = s.textlen := rfl
@[simp] theorem complete_iter (c : Code) (s : State) : (complete c s).iter = s.iter := rfl
@[simp] theorem complete_mem (c : Code) (s : State) : (complete c s).mem = s.mem := rfl
@[simp] theorem complete_phase (c : Code) (s : State) : (complete c s).phase = .idle := rfl
@[simp] theorem complete_opl (c : Code) (s : State) : (complete c s).opl = s.opl := rfl
@[simp] theorem complete_h (c : Code) (s : State) : (complete c s).h = s.h := rfl
@[simp] theorem complete_pe (c : Code) (s : State) : (complete c s).pe = s.pe := rfl
@[simp] theorem complete_ps (c : Code) (s : State) : (complete c s).ps = s.ps := rfl
@[simp] theorem complete_pd (c : Code) (s : State) : (complete c s).pd = s.pd := rfl
@[simp] theorem complete_pnc (c : Code) (s : State) : (complete c s).pnc = s.pnc := rfl
@[simp] theorem complete_port (c : Code) (s : State) : (complete c s).port = s.port := rfl
@[simp] theorem complete_inputs (c : Code) (s : State) : (complete c s).inputs = s.inputs := rfl
@[simp] theorem complete_host (c : Code) (s : State) : (complete c s).host = s.host := rfl

/-! The update `abort`. -/

@[simp] theorem abort_params (s : State) : (abort s).params = s.params := rfl
@[simp] theorem abort_epoch (s : State) : (abort s).epoch = s.epoch := rfl
@[simp] theorem abort_inReset (s : State) : (abort s).inReset = s.inReset := rfl
@[simp] theorem abort_irqEn (s : State) : (abort s).irqEn = s.irqEn := rfl
@[simp] theorem abort_done (s : State) : (abort s).done = true := rfl
@[simp] theorem abort_verMatch (s : State) : (abort s).verMatch = s.verMatch := rfl
@[simp] theorem abort_noncanon (s : State) : (abort s).noncanon = s.noncanon := rfl
@[simp] theorem abort_cmdOvr (s : State) : (abort s).cmdOvr = s.cmdOvr := rfl
@[simp] theorem abort_wrIgn (s : State) : (abort s).wrIgn = s.wrIgn := rfl
@[simp] theorem abort_errcode (s : State) : (abort s).errcode = .aborted := rfl
@[simp] theorem abort_lastop (s : State) : (abort s).lastop = s.lastop := rfl
@[simp] theorem abort_arg (s : State) : (abort s).arg = s.arg := rfl
@[simp] theorem abort_result (s : State) : (abort s).result = s.result := rfl
@[simp] theorem abort_exp (s : State) : (abort s).exp = s.exp := rfl
@[simp] theorem abort_pwlen (s : State) : (abort s).pwlen = s.pwlen := rfl
@[simp] theorem abort_textlen (s : State) : (abort s).textlen = s.textlen := rfl
@[simp] theorem abort_iter (s : State) : (abort s).iter = s.iter := rfl
@[simp] theorem abort_mem (s : State) : (abort s).mem = s.mem := rfl
@[simp] theorem abort_phase (s : State) : (abort s).phase = .idle := rfl
@[simp] theorem abort_opl (s : State) : (abort s).opl = s.opl := rfl
@[simp] theorem abort_h (s : State) : (abort s).h = s.h := rfl
@[simp] theorem abort_pe (s : State) : (abort s).pe = s.pe := rfl
@[simp] theorem abort_ps (s : State) : (abort s).ps = s.ps := rfl
@[simp] theorem abort_pd (s : State) : (abort s).pd = s.pd := rfl
@[simp] theorem abort_pnc (s : State) : (abort s).pnc = s.pnc := rfl
@[simp] theorem abort_port (s : State) : (abort s).port = s.port := rfl
@[simp] theorem abort_inputs (s : State) : (abort s).inputs = s.inputs := rfl
@[simp] theorem abort_host (s : State) : (abort s).host = s.host := rfl

/-! The update `acknowledge`. -/

@[simp] theorem acknowledge_params (s : State) : (acknowledge s).params = s.params := rfl
@[simp] theorem acknowledge_epoch (s : State) : (acknowledge s).epoch = s.epoch := rfl
@[simp] theorem acknowledge_inReset (s : State) : (acknowledge s).inReset = s.inReset := rfl
@[simp] theorem acknowledge_irqEn (s : State) : (acknowledge s).irqEn = s.irqEn := rfl
@[simp] theorem acknowledge_done (s : State) : (acknowledge s).done = false := rfl
@[simp] theorem acknowledge_verMatch (s : State) : (acknowledge s).verMatch = s.verMatch := rfl
@[simp] theorem acknowledge_noncanon (s : State) : (acknowledge s).noncanon = s.noncanon := rfl
@[simp] theorem acknowledge_cmdOvr (s : State) : (acknowledge s).cmdOvr = s.cmdOvr := rfl
@[simp] theorem acknowledge_wrIgn (s : State) : (acknowledge s).wrIgn = s.wrIgn := rfl
@[simp] theorem acknowledge_errcode (s : State) : (acknowledge s).errcode = s.errcode := rfl
@[simp] theorem acknowledge_lastop (s : State) : (acknowledge s).lastop = s.lastop := rfl
@[simp] theorem acknowledge_arg (s : State) : (acknowledge s).arg = s.arg := rfl
@[simp] theorem acknowledge_result (s : State) : (acknowledge s).result = s.result := rfl
@[simp] theorem acknowledge_exp (s : State) : (acknowledge s).exp = s.exp := rfl
@[simp] theorem acknowledge_pwlen (s : State) : (acknowledge s).pwlen = s.pwlen := rfl
@[simp] theorem acknowledge_textlen (s : State) : (acknowledge s).textlen = s.textlen := rfl
@[simp] theorem acknowledge_iter (s : State) : (acknowledge s).iter = s.iter := rfl
@[simp] theorem acknowledge_mem (s : State) : (acknowledge s).mem = s.mem := rfl
@[simp] theorem acknowledge_phase (s : State) : (acknowledge s).phase = s.phase := rfl
@[simp] theorem acknowledge_opl (s : State) : (acknowledge s).opl = s.opl := rfl
@[simp] theorem acknowledge_h (s : State) : (acknowledge s).h = s.h := rfl
@[simp] theorem acknowledge_pe (s : State) : (acknowledge s).pe = s.pe := rfl
@[simp] theorem acknowledge_ps (s : State) : (acknowledge s).ps = s.ps := rfl
@[simp] theorem acknowledge_pd (s : State) : (acknowledge s).pd = s.pd := rfl
@[simp] theorem acknowledge_pnc (s : State) : (acknowledge s).pnc = s.pnc := rfl
@[simp] theorem acknowledge_port (s : State) : (acknowledge s).port = s.port := rfl
@[simp] theorem acknowledge_inputs (s : State) : (acknowledge s).inputs = s.inputs := rfl
@[simp] theorem acknowledge_host (s : State) : (acknowledge s).host = s.host := rfl

/-! The update `assertReset`. -/

@[simp] theorem assertReset_params (s : State) : (assertReset s).params = s.params := rfl
@[simp] theorem assertReset_epoch (s : State) : (assertReset s).epoch = s.epoch := rfl
@[simp] theorem assertReset_inReset (s : State) : (assertReset s).inReset = true := rfl
@[simp] theorem assertReset_irqEn (s : State) : (assertReset s).irqEn = s.irqEn := rfl
@[simp] theorem assertReset_done (s : State) : (assertReset s).done = s.done := rfl
@[simp] theorem assertReset_verMatch (s : State) : (assertReset s).verMatch = s.verMatch := rfl
@[simp] theorem assertReset_noncanon (s : State) : (assertReset s).noncanon = s.noncanon := rfl
@[simp] theorem assertReset_cmdOvr (s : State) : (assertReset s).cmdOvr = s.cmdOvr := rfl
@[simp] theorem assertReset_wrIgn (s : State) : (assertReset s).wrIgn = s.wrIgn := rfl
@[simp] theorem assertReset_errcode (s : State) : (assertReset s).errcode = s.errcode := rfl
@[simp] theorem assertReset_lastop (s : State) : (assertReset s).lastop = s.lastop := rfl
@[simp] theorem assertReset_arg (s : State) : (assertReset s).arg = s.arg := rfl
@[simp] theorem assertReset_result (s : State) : (assertReset s).result = s.result := rfl
@[simp] theorem assertReset_exp (s : State) : (assertReset s).exp = s.exp := rfl
@[simp] theorem assertReset_pwlen (s : State) : (assertReset s).pwlen = s.pwlen := rfl
@[simp] theorem assertReset_textlen (s : State) : (assertReset s).textlen = s.textlen := rfl
@[simp] theorem assertReset_iter (s : State) : (assertReset s).iter = s.iter := rfl
@[simp] theorem assertReset_mem (s : State) : (assertReset s).mem = s.mem := rfl
@[simp] theorem assertReset_phase (s : State) : (assertReset s).phase = s.phase := rfl
@[simp] theorem assertReset_opl (s : State) : (assertReset s).opl = s.opl := rfl
@[simp] theorem assertReset_h (s : State) : (assertReset s).h = s.h := rfl
@[simp] theorem assertReset_pe (s : State) : (assertReset s).pe = s.pe := rfl
@[simp] theorem assertReset_ps (s : State) : (assertReset s).ps = s.ps := rfl
@[simp] theorem assertReset_pd (s : State) : (assertReset s).pd = s.pd := rfl
@[simp] theorem assertReset_pnc (s : State) : (assertReset s).pnc = s.pnc := rfl
@[simp] theorem assertReset_port (s : State) : (assertReset s).port = s.port := rfl
@[simp] theorem assertReset_inputs (s : State) : (assertReset s).inputs = s.inputs := rfl
@[simp] theorem assertReset_host (s : State) : (assertReset s).host = s.host := rfl

/-! The update `putBytes`. -/

@[simp] theorem putBytes_params (a : Nat) (bs : List Byte) (s : State) : (s.putBytes a bs).params = s.params := rfl
@[simp] theorem putBytes_epoch (a : Nat) (bs : List Byte) (s : State) : (s.putBytes a bs).epoch = s.epoch := rfl
@[simp] theorem putBytes_inReset (a : Nat) (bs : List Byte) (s : State) : (s.putBytes a bs).inReset = s.inReset := rfl
@[simp] theorem putBytes_irqEn (a : Nat) (bs : List Byte) (s : State) : (s.putBytes a bs).irqEn = s.irqEn := rfl
@[simp] theorem putBytes_done (a : Nat) (bs : List Byte) (s : State) : (s.putBytes a bs).done = s.done := rfl
@[simp] theorem putBytes_verMatch (a : Nat) (bs : List Byte) (s : State) : (s.putBytes a bs).verMatch = s.verMatch := rfl
@[simp] theorem putBytes_noncanon (a : Nat) (bs : List Byte) (s : State) : (s.putBytes a bs).noncanon = s.noncanon := rfl
@[simp] theorem putBytes_cmdOvr (a : Nat) (bs : List Byte) (s : State) : (s.putBytes a bs).cmdOvr = s.cmdOvr := rfl
@[simp] theorem putBytes_wrIgn (a : Nat) (bs : List Byte) (s : State) : (s.putBytes a bs).wrIgn = s.wrIgn := rfl
@[simp] theorem putBytes_errcode (a : Nat) (bs : List Byte) (s : State) : (s.putBytes a bs).errcode = s.errcode := rfl
@[simp] theorem putBytes_lastop (a : Nat) (bs : List Byte) (s : State) : (s.putBytes a bs).lastop = s.lastop := rfl
@[simp] theorem putBytes_arg (a : Nat) (bs : List Byte) (s : State) : (s.putBytes a bs).arg = s.arg := rfl
@[simp] theorem putBytes_result (a : Nat) (bs : List Byte) (s : State) : (s.putBytes a bs).result = s.result := rfl
@[simp] theorem putBytes_exp (a : Nat) (bs : List Byte) (s : State) : (s.putBytes a bs).exp = s.exp := rfl
@[simp] theorem putBytes_pwlen (a : Nat) (bs : List Byte) (s : State) : (s.putBytes a bs).pwlen = s.pwlen := rfl
@[simp] theorem putBytes_textlen (a : Nat) (bs : List Byte) (s : State) : (s.putBytes a bs).textlen = s.textlen := rfl
@[simp] theorem putBytes_iter (a : Nat) (bs : List Byte) (s : State) : (s.putBytes a bs).iter = s.iter := rfl
@[simp] theorem putBytes_mem (a : Nat) (bs : List Byte) (s : State) : (s.putBytes a bs).mem = s.mem.storeBytes a bs := rfl
@[simp] theorem putBytes_phase (a : Nat) (bs : List Byte) (s : State) : (s.putBytes a bs).phase = s.phase := rfl
@[simp] theorem putBytes_opl (a : Nat) (bs : List Byte) (s : State) : (s.putBytes a bs).opl = s.opl := rfl
@[simp] theorem putBytes_h (a : Nat) (bs : List Byte) (s : State) : (s.putBytes a bs).h = s.h := rfl
@[simp] theorem putBytes_pe (a : Nat) (bs : List Byte) (s : State) : (s.putBytes a bs).pe = s.pe := rfl
@[simp] theorem putBytes_ps (a : Nat) (bs : List Byte) (s : State) : (s.putBytes a bs).ps = s.ps := rfl
@[simp] theorem putBytes_pd (a : Nat) (bs : List Byte) (s : State) : (s.putBytes a bs).pd = s.pd := rfl
@[simp] theorem putBytes_pnc (a : Nat) (bs : List Byte) (s : State) : (s.putBytes a bs).pnc = s.pnc := rfl
@[simp] theorem putBytes_port (a : Nat) (bs : List Byte) (s : State) : (s.putBytes a bs).port = s.port := rfl
@[simp] theorem putBytes_inputs (a : Nat) (bs : List Byte) (s : State) : (s.putBytes a bs).inputs = s.inputs := rfl
@[simp] theorem putBytes_host (a : Nat) (bs : List Byte) (s : State) : (s.putBytes a bs).host = s.host := rfl

/-! The update `putText`. -/

@[simp] theorem putText_params (t : List Byte) (s : State) : (s.putText t).params = s.params := rfl
@[simp] theorem putText_epoch (t : List Byte) (s : State) : (s.putText t).epoch = s.epoch := rfl
@[simp] theorem putText_inReset (t : List Byte) (s : State) : (s.putText t).inReset = s.inReset := rfl
@[simp] theorem putText_irqEn (t : List Byte) (s : State) : (s.putText t).irqEn = s.irqEn := rfl
@[simp] theorem putText_done (t : List Byte) (s : State) : (s.putText t).done = s.done := rfl
@[simp] theorem putText_verMatch (t : List Byte) (s : State) : (s.putText t).verMatch = s.verMatch := rfl
@[simp] theorem putText_noncanon (t : List Byte) (s : State) : (s.putText t).noncanon = s.noncanon := rfl
@[simp] theorem putText_cmdOvr (t : List Byte) (s : State) : (s.putText t).cmdOvr = s.cmdOvr := rfl
@[simp] theorem putText_wrIgn (t : List Byte) (s : State) : (s.putText t).wrIgn = s.wrIgn := rfl
@[simp] theorem putText_errcode (t : List Byte) (s : State) : (s.putText t).errcode = s.errcode := rfl
@[simp] theorem putText_lastop (t : List Byte) (s : State) : (s.putText t).lastop = s.lastop := rfl
@[simp] theorem putText_arg (t : List Byte) (s : State) : (s.putText t).arg = s.arg := rfl
@[simp] theorem putText_result (t : List Byte) (s : State) : (s.putText t).result = s.result := rfl
@[simp] theorem putText_exp (t : List Byte) (s : State) : (s.putText t).exp = s.exp := rfl
@[simp] theorem putText_pwlen (t : List Byte) (s : State) : (s.putText t).pwlen = s.pwlen := rfl
@[simp] theorem putText_textlen (t : List Byte) (s : State) : (s.putText t).textlen = BitVec.ofNat 8 t.length := rfl
@[simp] theorem putText_iter (t : List Byte) (s : State) : (s.putText t).iter = s.iter := rfl
@[simp] theorem putText_mem (t : List Byte) (s : State) : (s.putText t).mem = s.mem.storeBytes textBase t := rfl
@[simp] theorem putText_phase (t : List Byte) (s : State) : (s.putText t).phase = s.phase := rfl
@[simp] theorem putText_opl (t : List Byte) (s : State) : (s.putText t).opl = s.opl := rfl
@[simp] theorem putText_h (t : List Byte) (s : State) : (s.putText t).h = s.h := rfl
@[simp] theorem putText_pe (t : List Byte) (s : State) : (s.putText t).pe = s.pe := rfl
@[simp] theorem putText_ps (t : List Byte) (s : State) : (s.putText t).ps = s.ps := rfl
@[simp] theorem putText_pd (t : List Byte) (s : State) : (s.putText t).pd = s.pd := rfl
@[simp] theorem putText_pnc (t : List Byte) (s : State) : (s.putText t).pnc = s.pnc := rfl
@[simp] theorem putText_port (t : List Byte) (s : State) : (s.putText t).port = s.port := rfl
@[simp] theorem putText_inputs (t : List Byte) (s : State) : (s.putText t).inputs = s.inputs := rfl
@[simp] theorem putText_host (t : List Byte) (s : State) : (s.putText t).host = s.host := rfl

/-! The update `putDigest`. -/

@[simp] theorem putDigest_params (d : BitVec 128) (s : State) : (s.putDigest d).params = s.params := by dsimp only [State.putDigest, State.putBytes]
@[simp] theorem putDigest_epoch (d : BitVec 128) (s : State) : (s.putDigest d).epoch = s.epoch := by dsimp only [State.putDigest, State.putBytes]
@[simp] theorem putDigest_inReset (d : BitVec 128) (s : State) : (s.putDigest d).inReset = s.inReset := by dsimp only [State.putDigest, State.putBytes]
@[simp] theorem putDigest_irqEn (d : BitVec 128) (s : State) : (s.putDigest d).irqEn = s.irqEn := by dsimp only [State.putDigest, State.putBytes]
@[simp] theorem putDigest_done (d : BitVec 128) (s : State) : (s.putDigest d).done = s.done := by dsimp only [State.putDigest, State.putBytes]
@[simp] theorem putDigest_verMatch (d : BitVec 128) (s : State) : (s.putDigest d).verMatch = s.verMatch := by dsimp only [State.putDigest, State.putBytes]
@[simp] theorem putDigest_noncanon (d : BitVec 128) (s : State) : (s.putDigest d).noncanon = s.noncanon := by dsimp only [State.putDigest, State.putBytes]
@[simp] theorem putDigest_cmdOvr (d : BitVec 128) (s : State) : (s.putDigest d).cmdOvr = s.cmdOvr := by dsimp only [State.putDigest, State.putBytes]
@[simp] theorem putDigest_wrIgn (d : BitVec 128) (s : State) : (s.putDigest d).wrIgn = s.wrIgn := by dsimp only [State.putDigest, State.putBytes]
@[simp] theorem putDigest_errcode (d : BitVec 128) (s : State) : (s.putDigest d).errcode = s.errcode := by dsimp only [State.putDigest, State.putBytes]
@[simp] theorem putDigest_lastop (d : BitVec 128) (s : State) : (s.putDigest d).lastop = s.lastop := by dsimp only [State.putDigest, State.putBytes]
@[simp] theorem putDigest_arg (d : BitVec 128) (s : State) : (s.putDigest d).arg = s.arg := by dsimp only [State.putDigest, State.putBytes]
@[simp] theorem putDigest_result (d : BitVec 128) (s : State) : (s.putDigest d).result = s.result := by dsimp only [State.putDigest, State.putBytes]
@[simp] theorem putDigest_exp (d : BitVec 128) (s : State) : (s.putDigest d).exp = s.exp := by dsimp only [State.putDigest, State.putBytes]
@[simp] theorem putDigest_pwlen (d : BitVec 128) (s : State) : (s.putDigest d).pwlen = s.pwlen := by dsimp only [State.putDigest, State.putBytes]
@[simp] theorem putDigest_textlen (d : BitVec 128) (s : State) : (s.putDigest d).textlen = s.textlen := by dsimp only [State.putDigest, State.putBytes]
@[simp] theorem putDigest_iter (d : BitVec 128) (s : State) : (s.putDigest d).iter = s.iter := by dsimp only [State.putDigest, State.putBytes]
@[simp] theorem putDigest_mem (d : BitVec 128) (s : State) : (s.putDigest d).mem = s.mem.storeBytes digestBase (leBytes 16 d) := by dsimp only [State.putDigest, State.putBytes]
@[simp] theorem putDigest_phase (d : BitVec 128) (s : State) : (s.putDigest d).phase = s.phase := by dsimp only [State.putDigest, State.putBytes]
@[simp] theorem putDigest_opl (d : BitVec 128) (s : State) : (s.putDigest d).opl = s.opl := by dsimp only [State.putDigest, State.putBytes]
@[simp] theorem putDigest_h (d : BitVec 128) (s : State) : (s.putDigest d).h = s.h := by dsimp only [State.putDigest, State.putBytes]
@[simp] theorem putDigest_pe (d : BitVec 128) (s : State) : (s.putDigest d).pe = s.pe := by dsimp only [State.putDigest, State.putBytes]
@[simp] theorem putDigest_ps (d : BitVec 128) (s : State) : (s.putDigest d).ps = s.ps := by dsimp only [State.putDigest, State.putBytes]
@[simp] theorem putDigest_pd (d : BitVec 128) (s : State) : (s.putDigest d).pd = s.pd := by dsimp only [State.putDigest, State.putBytes]
@[simp] theorem putDigest_pnc (d : BitVec 128) (s : State) : (s.putDigest d).pnc = s.pnc := by dsimp only [State.putDigest, State.putBytes]
@[simp] theorem putDigest_port (d : BitVec 128) (s : State) : (s.putDigest d).port = s.port := by dsimp only [State.putDigest, State.putBytes]
@[simp] theorem putDigest_inputs (d : BitVec 128) (s : State) : (s.putDigest d).inputs = s.inputs := by dsimp only [State.putDigest, State.putBytes]
@[simp] theorem putDigest_host (d : BitVec 128) (s : State) : (s.putDigest d).host = s.host := by dsimp only [State.putDigest, State.putBytes]

/-! The update `putSalt`. -/

@[simp] theorem putSalt_params (d : BitVec 64) (s : State) : (s.putSalt d).params = s.params := by dsimp only [State.putSalt, State.putBytes]
@[simp] theorem putSalt_epoch (d : BitVec 64) (s : State) : (s.putSalt d).epoch = s.epoch := by dsimp only [State.putSalt, State.putBytes]
@[simp] theorem putSalt_inReset (d : BitVec 64) (s : State) : (s.putSalt d).inReset = s.inReset := by dsimp only [State.putSalt, State.putBytes]
@[simp] theorem putSalt_irqEn (d : BitVec 64) (s : State) : (s.putSalt d).irqEn = s.irqEn := by dsimp only [State.putSalt, State.putBytes]
@[simp] theorem putSalt_done (d : BitVec 64) (s : State) : (s.putSalt d).done = s.done := by dsimp only [State.putSalt, State.putBytes]
@[simp] theorem putSalt_verMatch (d : BitVec 64) (s : State) : (s.putSalt d).verMatch = s.verMatch := by dsimp only [State.putSalt, State.putBytes]
@[simp] theorem putSalt_noncanon (d : BitVec 64) (s : State) : (s.putSalt d).noncanon = s.noncanon := by dsimp only [State.putSalt, State.putBytes]
@[simp] theorem putSalt_cmdOvr (d : BitVec 64) (s : State) : (s.putSalt d).cmdOvr = s.cmdOvr := by dsimp only [State.putSalt, State.putBytes]
@[simp] theorem putSalt_wrIgn (d : BitVec 64) (s : State) : (s.putSalt d).wrIgn = s.wrIgn := by dsimp only [State.putSalt, State.putBytes]
@[simp] theorem putSalt_errcode (d : BitVec 64) (s : State) : (s.putSalt d).errcode = s.errcode := by dsimp only [State.putSalt, State.putBytes]
@[simp] theorem putSalt_lastop (d : BitVec 64) (s : State) : (s.putSalt d).lastop = s.lastop := by dsimp only [State.putSalt, State.putBytes]
@[simp] theorem putSalt_arg (d : BitVec 64) (s : State) : (s.putSalt d).arg = s.arg := by dsimp only [State.putSalt, State.putBytes]
@[simp] theorem putSalt_result (d : BitVec 64) (s : State) : (s.putSalt d).result = s.result := by dsimp only [State.putSalt, State.putBytes]
@[simp] theorem putSalt_exp (d : BitVec 64) (s : State) : (s.putSalt d).exp = s.exp := by dsimp only [State.putSalt, State.putBytes]
@[simp] theorem putSalt_pwlen (d : BitVec 64) (s : State) : (s.putSalt d).pwlen = s.pwlen := by dsimp only [State.putSalt, State.putBytes]
@[simp] theorem putSalt_textlen (d : BitVec 64) (s : State) : (s.putSalt d).textlen = s.textlen := by dsimp only [State.putSalt, State.putBytes]
@[simp] theorem putSalt_iter (d : BitVec 64) (s : State) : (s.putSalt d).iter = s.iter := by dsimp only [State.putSalt, State.putBytes]
@[simp] theorem putSalt_mem (d : BitVec 64) (s : State) : (s.putSalt d).mem = s.mem.storeBytes saltBase (leBytes 8 d) := by dsimp only [State.putSalt, State.putBytes]
@[simp] theorem putSalt_phase (d : BitVec 64) (s : State) : (s.putSalt d).phase = s.phase := by dsimp only [State.putSalt, State.putBytes]
@[simp] theorem putSalt_opl (d : BitVec 64) (s : State) : (s.putSalt d).opl = s.opl := by dsimp only [State.putSalt, State.putBytes]
@[simp] theorem putSalt_h (d : BitVec 64) (s : State) : (s.putSalt d).h = s.h := by dsimp only [State.putSalt, State.putBytes]
@[simp] theorem putSalt_pe (d : BitVec 64) (s : State) : (s.putSalt d).pe = s.pe := by dsimp only [State.putSalt, State.putBytes]
@[simp] theorem putSalt_ps (d : BitVec 64) (s : State) : (s.putSalt d).ps = s.ps := by dsimp only [State.putSalt, State.putBytes]
@[simp] theorem putSalt_pd (d : BitVec 64) (s : State) : (s.putSalt d).pd = s.pd := by dsimp only [State.putSalt, State.putBytes]
@[simp] theorem putSalt_pnc (d : BitVec 64) (s : State) : (s.putSalt d).pnc = s.pnc := by dsimp only [State.putSalt, State.putBytes]
@[simp] theorem putSalt_port (d : BitVec 64) (s : State) : (s.putSalt d).port = s.port := by dsimp only [State.putSalt, State.putBytes]
@[simp] theorem putSalt_inputs (d : BitVec 64) (s : State) : (s.putSalt d).inputs = s.inputs := by dsimp only [State.putSalt, State.putBytes]
@[simp] theorem putSalt_host (d : BitVec 64) (s : State) : (s.putSalt d).host = s.host := by dsimp only [State.putSalt, State.putBytes]

/-! The update `hashStart`. -/

@[simp] theorem hashStart_params (e : Sextet) (S : BitVec 64) (s : State) : (hashStart e S s).params = s.params := by dsimp only [hashStart]
@[simp] theorem hashStart_epoch (e : Sextet) (S : BitVec 64) (s : State) : (hashStart e S s).epoch = s.epoch := by dsimp only [hashStart]
@[simp] theorem hashStart_inReset (e : Sextet) (S : BitVec 64) (s : State) : (hashStart e S s).inReset = s.inReset := by dsimp only [hashStart]
@[simp] theorem hashStart_irqEn (e : Sextet) (S : BitVec 64) (s : State) : (hashStart e S s).irqEn = s.irqEn := by dsimp only [hashStart]
@[simp] theorem hashStart_done (e : Sextet) (S : BitVec 64) (s : State) : (hashStart e S s).done = s.done := by dsimp only [hashStart]
@[simp] theorem hashStart_verMatch (e : Sextet) (S : BitVec 64) (s : State) : (hashStart e S s).verMatch = s.verMatch := by dsimp only [hashStart]
@[simp] theorem hashStart_noncanon (e : Sextet) (S : BitVec 64) (s : State) : (hashStart e S s).noncanon = s.noncanon := by dsimp only [hashStart]
@[simp] theorem hashStart_cmdOvr (e : Sextet) (S : BitVec 64) (s : State) : (hashStart e S s).cmdOvr = s.cmdOvr := by dsimp only [hashStart]
@[simp] theorem hashStart_wrIgn (e : Sextet) (S : BitVec 64) (s : State) : (hashStart e S s).wrIgn = s.wrIgn := by dsimp only [hashStart]
@[simp] theorem hashStart_errcode (e : Sextet) (S : BitVec 64) (s : State) : (hashStart e S s).errcode = s.errcode := by dsimp only [hashStart]
@[simp] theorem hashStart_lastop (e : Sextet) (S : BitVec 64) (s : State) : (hashStart e S s).lastop = s.lastop := by dsimp only [hashStart]
@[simp] theorem hashStart_arg (e : Sextet) (S : BitVec 64) (s : State) : (hashStart e S s).arg = s.arg := by dsimp only [hashStart]
@[simp] theorem hashStart_result (e : Sextet) (S : BitVec 64) (s : State) : (hashStart e S s).result = s.result := by dsimp only [hashStart]
@[simp] theorem hashStart_exp (e : Sextet) (S : BitVec 64) (s : State) : (hashStart e S s).exp = s.exp := by dsimp only [hashStart]
@[simp] theorem hashStart_pwlen (e : Sextet) (S : BitVec 64) (s : State) : (hashStart e S s).pwlen = s.pwlen := by dsimp only [hashStart]
@[simp] theorem hashStart_textlen (e : Sextet) (S : BitVec 64) (s : State) : (hashStart e S s).textlen = s.textlen := by dsimp only [hashStart]
@[simp] theorem hashStart_iter (e : Sextet) (S : BitVec 64) (s : State) : (hashStart e S s).iter = iterLoad e := by dsimp only [hashStart]
@[simp] theorem hashStart_mem (e : Sextet) (S : BitVec 64) (s : State) : (hashStart e S s).mem = s.mem := by dsimp only [hashStart]
@[simp] theorem hashStart_phase (e : Sextet) (S : BitVec 64) (s : State) : (hashStart e S s).phase = .chain := by dsimp only [hashStart]
@[simp] theorem hashStart_opl (e : Sextet) (S : BitVec 64) (s : State) : (hashStart e S s).opl = s.opl := by dsimp only [hashStart]
@[simp] theorem hashStart_h (e : Sextet) (S : BitVec 64) (s : State) : (hashStart e S s).h = md5 (leBytes 8 S ++ s.password) := by dsimp only [hashStart]
@[simp] theorem hashStart_pe (e : Sextet) (S : BitVec 64) (s : State) : (hashStart e S s).pe = s.pe := by dsimp only [hashStart]
@[simp] theorem hashStart_ps (e : Sextet) (S : BitVec 64) (s : State) : (hashStart e S s).ps = s.ps := by dsimp only [hashStart]
@[simp] theorem hashStart_pd (e : Sextet) (S : BitVec 64) (s : State) : (hashStart e S s).pd = s.pd := by dsimp only [hashStart]
@[simp] theorem hashStart_pnc (e : Sextet) (S : BitVec 64) (s : State) : (hashStart e S s).pnc = s.pnc := by dsimp only [hashStart]
@[simp] theorem hashStart_port (e : Sextet) (S : BitVec 64) (s : State) : (hashStart e S s).port = s.port := by dsimp only [hashStart]
@[simp] theorem hashStart_inputs (e : Sextet) (S : BitVec 64) (s : State) : (hashStart e S s).inputs = s.inputs := by dsimp only [hashStart]
@[simp] theorem hashStart_host (e : Sextet) (S : BitVec 64) (s : State) : (hashStart e S s).host = s.host := by dsimp only [hashStart]

/-! The update `hostAt`. -/

@[simp] theorem hostAt_params (k : Nat) (s : State) : (hostAt k s).params = s.params := rfl
@[simp] theorem hostAt_epoch (k : Nat) (s : State) : (hostAt k s).epoch = s.epoch := rfl
@[simp] theorem hostAt_inReset (k : Nat) (s : State) : (hostAt k s).inReset = s.inReset := rfl
@[simp] theorem hostAt_irqEn (k : Nat) (s : State) : (hostAt k s).irqEn = s.irqEn := rfl
@[simp] theorem hostAt_done (k : Nat) (s : State) : (hostAt k s).done = s.done := rfl
@[simp] theorem hostAt_verMatch (k : Nat) (s : State) : (hostAt k s).verMatch = s.verMatch := rfl
@[simp] theorem hostAt_noncanon (k : Nat) (s : State) : (hostAt k s).noncanon = s.noncanon := rfl
@[simp] theorem hostAt_cmdOvr (k : Nat) (s : State) : (hostAt k s).cmdOvr = s.cmdOvr := rfl
@[simp] theorem hostAt_wrIgn (k : Nat) (s : State) : (hostAt k s).wrIgn = s.wrIgn := rfl
@[simp] theorem hostAt_errcode (k : Nat) (s : State) : (hostAt k s).errcode = s.errcode := rfl
@[simp] theorem hostAt_lastop (k : Nat) (s : State) : (hostAt k s).lastop = s.lastop := rfl
@[simp] theorem hostAt_arg (k : Nat) (s : State) : (hostAt k s).arg = s.arg := rfl
@[simp] theorem hostAt_result (k : Nat) (s : State) : (hostAt k s).result = s.result := rfl
@[simp] theorem hostAt_exp (k : Nat) (s : State) : (hostAt k s).exp = s.exp := rfl
@[simp] theorem hostAt_pwlen (k : Nat) (s : State) : (hostAt k s).pwlen = s.pwlen := rfl
@[simp] theorem hostAt_textlen (k : Nat) (s : State) : (hostAt k s).textlen = s.textlen := rfl
@[simp] theorem hostAt_iter (k : Nat) (s : State) : (hostAt k s).iter = s.iter := rfl
@[simp] theorem hostAt_mem (k : Nat) (s : State) : (hostAt k s).mem = s.mem := rfl
@[simp] theorem hostAt_phase (k : Nat) (s : State) : (hostAt k s).phase = s.phase := rfl
@[simp] theorem hostAt_opl (k : Nat) (s : State) : (hostAt k s).opl = s.opl := rfl
@[simp] theorem hostAt_h (k : Nat) (s : State) : (hostAt k s).h = s.h := rfl
@[simp] theorem hostAt_pe (k : Nat) (s : State) : (hostAt k s).pe = s.pe := rfl
@[simp] theorem hostAt_ps (k : Nat) (s : State) : (hostAt k s).ps = s.ps := rfl
@[simp] theorem hostAt_pd (k : Nat) (s : State) : (hostAt k s).pd = s.pd := rfl
@[simp] theorem hostAt_pnc (k : Nat) (s : State) : (hostAt k s).pnc = s.pnc := rfl
@[simp] theorem hostAt_port (k : Nat) (s : State) : (hostAt k s).port = s.port := rfl
@[simp] theorem hostAt_inputs (k : Nat) (s : State) : (hostAt k s).inputs = s.inputs := rfl
@[simp] theorem hostAt_host (k : Nat) (s : State) : (hostAt k s).host = ({ s.host with place := k } : HostAgent) := rfl

end Sys2Proof.Machine
end

