-- ==== Sys2Proof/Laws/Memory.lean ====
section
/-! SUPPORT. Reading after writing, and the canonical form of the buffers. -/

namespace Sys2Proof.Machine

theorem Memory.lookup_store (m : Memory) (a x : Nat) (b : Byte) :
    (Memory.store m a b).lookup x = if x = a then some b else m.lookup x := by
  induction m with
  | nil => simp [Memory.store, Memory.lookup]
  | cons c m ih =>
    simp only [Memory.store]
    split
    · simp [Memory.lookup]
    · split
      · simp only [Memory.lookup]; split <;> simp_all
      · rename_i hlt hne
        simp only [Memory.lookup, ih]
        by_cases hx : x = c.1
        · rw [if_pos hx, if_pos hx, if_neg (fun h => hne (h.symm.trans hx))]
        · rw [if_neg hx, if_neg hx]

/-- What a write of consecutive cells does to every cell. -/
theorem Memory.lookup_storeBytes (m : Memory) (a x : Nat) (bs : List Byte) :
    (Memory.storeBytes m a bs).lookup x = if a ≤ x ∧ x < a + bs.length then bs[x - a]? else m.lookup x := by
  induction bs generalizing m a with
  | nil => simp only [Memory.storeBytes, List.length_nil]; split <;> first | omega | rfl
  | cons b bs ih =>
    rw [Memory.storeBytes, ih, Memory.lookup_store, List.length_cons]
    by_cases h : x = a
    · subst h; simp
    · by_cases h1 : a + 1 ≤ x ∧ x < a + 1 + bs.length
      · have h2 : x - a = x - (a + 1) + 1 := by omega
        rw [if_pos h1, if_pos (by omega), h2, List.getElem?_cons_succ]
      · rw [if_neg h1, if_neg h, if_neg (by omega)]

theorem Memory.mem_store {m : Memory} {a : Nat} {b : Byte} {c : Host.Cell} (h : c ∈ Memory.store m a b) :
    c = (a, b) ∨ c ∈ m := by
  induction m with
  | nil => simpa [Memory.store] using h
  | cons d m ih =>
    simp only [Memory.store] at h
    split at h
    · simpa using h
    · split at h
      · simp only [List.mem_cons] at h ⊢; tauto
      · simp only [List.mem_cons] at h ⊢
        rcases h with h | h
        · exact .inr (.inl h)
        · rcases ih h with h | h
          · exact .inl h
          · exact .inr (.inr h)

/-- A write keeps the canonical form. -/
theorem Memory.store_wf {m : Memory} (h : m.wf) (a : Nat) (b : Byte) : (Memory.store m a b).wf := by
  induction m with
  | nil => simp [Memory.wf, Memory.store]
  | cons c m ih =>
    have hc := List.pairwise_cons.mp h
    simp only [Memory.store]
    split
    · rename_i hlt
      refine List.pairwise_cons.mpr ⟨?_, h⟩
      intro d hd
      rcases List.mem_cons.mp hd with rfl | hd
      · exact hlt
      · exact lt_trans hlt (hc.1 d hd)
    · split
      · rename_i heq
        exact List.pairwise_cons.mpr ⟨fun d hd => by rw [heq]; exact hc.1 d hd, hc.2⟩
      · refine List.pairwise_cons.mpr ⟨?_, ih hc.2⟩
        intro d hd
        rcases Memory.mem_store hd with rfl | hd
        · change c.1 < a; omega
        · exact hc.1 d hd

/-- A write of consecutive cells keeps the canonical form. -/
theorem Memory.storeBytes_wf {m : Memory} (h : m.wf) (a : Nat) (bs : List Byte) : (Memory.storeBytes m a bs).wf := by
  induction bs generalizing m a with
  | nil => exact h
  | cons b bs ih => exact ih (Memory.store_wf h a b) (a + 1)

/-- The buffers have nothing listed after a reset, so they are in canonical form. -/
theorem reset_mem_wf (p : Params) (n : Nat) : (State.resetWith p n).mem.wf := List.Pairwise.nil

/-- Where the cells that a write of consecutive cells lists can lie. -/
theorem Memory.mem_storeBytes {m : Memory} {a : Nat} {bs : List Byte} {c : Host.Cell}
    (h : c ∈ Memory.storeBytes m a bs) : (a ≤ c.1 ∧ c.1 < a + bs.length) ∨ c ∈ m := by
  induction bs generalizing m a with
  | nil => exact .inr h
  | cons b bs ih =>
    rcases ih h with h | h
    · exact .inl ⟨by omega, by rw [List.length_cons]; omega⟩
    · rcases Memory.mem_store h with rfl | h
      · exact .inl ⟨le_refl _, by simp⟩
      · exact .inr h

/-- What writing a byte sequence does to every buffer cell. -/
theorem byteAt_putBytes (s : State) (a x : Nat) (bs : List Byte) :
    (s.putBytes a bs).byteAt x = if a ≤ x ∧ x < a + bs.length then bs.getD (x - a) 0x00#8 else s.byteAt x := by
  simp only [State.byteAt, putBytes_mem, putBytes_epoch, Memory.lookup_storeBytes]
  split
  · rename_i h
    have hx : x - a < bs.length := by omega
    simp [List.getElem?_eq_getElem hx]
  · rfl

@[simp] theorem bytesAt_length (s : State) (a n : Nat) : (s.bytesAt a n).length = n := by simp [State.bytesAt]

theorem bytesAt_getElem (s : State) (a n k : Nat) (h : k < (s.bytesAt a n).length) :
    (s.bytesAt a n)[k] = s.byteAt (a + k) := by simp [State.bytesAt]

/-- A written byte sequence is read back. -/
theorem bytesAt_putBytes_self (s : State) (a : Nat) (bs : List Byte) :
    (s.putBytes a bs).bytesAt a bs.length = bs := by
  apply List.ext_getElem
  · simp
  · intro k h1 h2
    have : a ≤ a + k ∧ a + k < a + bs.length := by omega
    rw [bytesAt_getElem, byteAt_putBytes, if_pos this]
    simp [List.getElem?_eq_getElem h2]

/-- Reading beside a written byte sequence. -/
theorem bytesAt_putBytes_disjoint (s : State) (a b n : Nat) (bs : List Byte)
    (h : b + n ≤ a ∨ a + bs.length ≤ b) : (s.putBytes a bs).bytesAt b n = s.bytesAt b n := by
  apply List.ext_getElem
  · simp
  · intro k h1 h2
    have hk : k < n := by simpa using h1
    rw [bytesAt_getElem, bytesAt_getElem, byteAt_putBytes, if_neg (by omega)]

/-- A buffer byte depends on the memory and the reset count alone. -/
theorem byteAt_congr {s t : State} (hm : t.mem = s.mem) (he : t.epoch = s.epoch) (a : Nat) :
    t.byteAt a = s.byteAt a := by
  simp only [State.byteAt, hm, he]

/-- Buffer bytes depend on the memory and the reset count alone. -/
theorem bytesAt_congr {s t : State} (hm : t.mem = s.mem) (he : t.epoch = s.epoch) (a n : Nat) :
    t.bytesAt a n = s.bytesAt a n := by
  simp only [State.bytesAt, State.byteAt, hm, he]

@[simp] theorem complete_byteAt (c : Code) (s : State) (a : Nat) : (complete c s).byteAt a = s.byteAt a :=
  byteAt_congr (complete_mem c s) (complete_epoch c s) a

@[simp] theorem complete_bytesAt (c : Code) (s : State) (a n : Nat) :
    (complete c s).bytesAt a n = s.bytesAt a n :=
  bytesAt_congr (complete_mem c s) (complete_epoch c s) a n

/-- What writing DIGEST does to every buffer cell. -/
theorem byteAt_putDigest (s : State) (d : BitVec 128) (x : Nat) :
    (s.putDigest d).byteAt x = if 0x050 ≤ x ∧ x < 0x050 + 16 then byteOf d (x - 0x050) else s.byteAt x := by
  rw [State.putDigest, byteAt_putBytes, leBytes_length]
  split
  · rename_i h
    have hx : x - 0x050 < 16 := by simp only [digestBase] at h; omega
    rw [List.getD_eq_getElem?_getD, leBytes_getElem?, if_pos hx, Option.getD_some]
  · rfl

/-- What writing SALT does to every buffer cell. -/
theorem byteAt_putSalt (s : State) (v : BitVec 64) (x : Nat) :
    (s.putSalt v).byteAt x = if 0x040 ≤ x ∧ x < 0x040 + 8 then byteOf v (x - 0x040) else s.byteAt x := by
  rw [State.putSalt, byteAt_putBytes, leBytes_length]
  split
  · rename_i h
    have hx : x - 0x040 < 8 := by simp only [saltBase] at h; omega
    rw [List.getD_eq_getElem?_getD, leBytes_getElem?, if_pos hx, Option.getD_some]
  · rfl

/-- What writing TEXT does to every buffer cell. -/
theorem byteAt_putText (s : State) (t : List Byte) (x : Nat) :
    (s.putText t).byteAt x = if 0x080 ≤ x ∧ x < 0x080 + t.length then t.getD (x - 0x080) 0x00#8 else s.byteAt x := by
  rw [byteAt_congr (s := s.putBytes textBase t) (putText_mem t s) (putText_epoch t s), byteAt_putBytes]

/-- DIGEST as just written. -/
theorem bytesAt_putDigest_self (s : State) (d : BitVec 128) : (s.putDigest d).bytesAt 0x050 16 = leBytes 16 d := by
  have h := bytesAt_putBytes_self s digestBase (leBytes 16 d)
  rwa [leBytes_length] at h

/-- SALT as just written. -/
theorem bytesAt_putSalt_self (s : State) (v : BitVec 64) : (s.putSalt v).bytesAt 0x040 8 = leBytes 8 v := by
  have h := bytesAt_putBytes_self s saltBase (leBytes 8 v)
  rwa [leBytes_length] at h

/-- TEXT as just written. -/
theorem bytesAt_putText_self (s : State) (t : List Byte) : (s.putText t).bytesAt 0x080 t.length = t := by
  rw [bytesAt_congr (s := s.putBytes textBase t) (putText_mem t s) (putText_epoch t s)]
  exact bytesAt_putBytes_self s textBase t

end Sys2Proof.Machine
end

