-- ==== Sys2Proof/Laws/PerInstr.lean ====
section
/-! SUPPORT. Facts about every instruction as syntax, one lemma per constructor. -/

namespace Sys2Proof.Laws

/-- The command word of an instruction is legal, and the instruction is well formed (30_encoding.md R61, R63, R67). -/
def EncodedWord.Statement (i : Instr) : Prop := legalCommandWord (encode i) ∧ i.wellFormed = true

theorem EncodedWord.sym2val : EncodedWord.Statement .sym2val := by unfold EncodedWord.Statement; decide
theorem EncodedWord.val2sym : EncodedWord.Statement .val2sym := by unfold EncodedWord.Statement; decide
theorem EncodedWord.encgrp : EncodedWord.Statement .encgrp := by unfold EncodedWord.Statement; decide
theorem EncodedWord.decgrp : EncodedWord.Statement .decgrp := by unfold EncodedWord.Statement; decide
theorem EncodedWord.encdig : EncodedWord.Statement .encdig := by unfold EncodedWord.Statement; decide
theorem EncodedWord.decdig : EncodedWord.Statement .decdig := by unfold EncodedWord.Statement; decide
theorem EncodedWord.chksum : EncodedWord.Statement .chksum := by unfold EncodedWord.Statement; decide
theorem EncodedWord.parse : EncodedWord.Statement .parse := by unfold EncodedWord.Statement; decide
theorem EncodedWord.format : EncodedWord.Statement .format := by unfold EncodedWord.Statement; decide
theorem EncodedWord.generate : EncodedWord.Statement .generate := by unfold EncodedWord.Statement; decide
theorem EncodedWord.verify : EncodedWord.Statement .verify := by unfold EncodedWord.Statement; decide

end Sys2Proof.Laws
end

