-- ==== Sys2Proof/Laws/Protocol.lean ====
section
/-! SUPPORT. What each shared operation, each meaning and each turn can do, said once. -/

namespace Sys2Proof.Machine

theorem busy_iff (s : State) : s.busy = true ↔ s.phase ≠ .idle := by
  unfold State.busy; cases s.phase <;> simp

theorem not_busy_iff (s : State) : s.busy = false ↔ s.phase = .idle := by
  unfold State.busy; cases s.phase <;> simp

/-- Everything the chain step can do (42_checksum.md R107). -/
theorem chainStep_cases (f : State → State) (s : State) :
    (s.iter ≠ 0#64 ∧ chainStep f s = { s with h := md5 (leBytes 16 s.h ++ s.password), iter := s.iter - 1#64 })
      ∨ (s.iter = 0#64 ∧ chainStep f s = f s) := by
  by_cases h : s.iter = 0#64
  · exact .inr ⟨h, by unfold chainStep; rw [if_neg (not_not.mpr h)]⟩
  · exact .inl ⟨h, by unfold chainStep; rw [if_pos h]⟩

/-- Everything an operand write can do (20_memory.md R51). -/
theorem writeOperand_cases (f : State → State) (s : State) :
    (s.busy = true ∧ writeOperand f s = { s with wrIgn := true }) ∨ (s.busy = false ∧ writeOperand f s = f s) := by
  unfold writeOperand
  cases h : s.busy <;> simp

/-- Everything a CMD write can do (40_command_protocol.md R73, R74). -/
theorem writeCmd_cases (v : Word) (s : State) :
    (s.busy = true ∧ writeCmd v s = { s with cmdOvr := true }) ∨ (s.busy = false ∧ writeCmd v s = accept v s) := by
  unfold writeCmd
  cases h : s.busy <;> simp

/-- Everything a CTRL write can do (10_state.md R17, 40_command_protocol.md R80). -/
theorem writeCtrl_cases (v : Word) (s : State) :
    (v.getLsbD 0 = true ∧ s.busy = true ∧ writeCtrl v s = abort { s with irqEn := v.getLsbD 1 })
      ∨ ((v.getLsbD 0 = false ∨ s.busy = false) ∧ writeCtrl v s = { s with irqEn := v.getLsbD 1 }) := by
  unfold writeCtrl
  cases h0 : v.getLsbD 0 <;> cases hb : s.busy <;> simp

/-- A STATUS write can change DONE, CMD_OVR and WR_IGN alone (10_state.md R19). -/
theorem writeStatus_eq (v : Word) (s : State) :
    writeStatus v s =
      { s with
        done := s.done && !v.getLsbD 1
        cmdOvr := s.cmdOvr && !v.getLsbD 5
        wrIgn := s.wrIgn && !v.getLsbD 6 } := by
  unfold writeStatus
  cases h1 : v.getLsbD 1 <;> simp [acknowledge]

/-- Everything a transaction can do: the bus-error response, a read, or a write to its target (20_memory.md R47, R49). -/
theorem transact_cases (t : Txn) (s : State) :
    (txnTarget t s = none ∧ transact t s = { s with port := .busError })
      ∨ (∃ g, txnTarget t s = some g ∧ t.access = .read ∧ transact t s = { s with port := .data (readTarget s g) })
      ∨ (∃ g v, txnTarget t s = some g ∧ t.access = .write v
          ∧ transact t s = { writeTarget v s g with port := .ack }) := by
  unfold transact
  cases hg : txnTarget t s with
  | none => exact .inl ⟨rfl, rfl⟩
  | some g =>
    cases ha : t.access with
    | read => exact .inr (.inl ⟨g, rfl, rfl, rfl⟩)
    | write v => exact .inr (.inr ⟨g, v, rfl, rfl, rfl⟩)

/-- Every command answers a next state: none stops the machine. -/
theorem exec_answers_next (i : Instr) (s : State) : ∃ t, exec i s = .next t := by
  cases i <;> exact ⟨_, rfl⟩

/-- What no command changes: the instance, the reset line, the interrupt enable, the sticky flags, LASTOP, ARG, PWLEN, OPL
and the environment (30_encoding.md R65). -/
theorem exec_frame {i : Instr} {s t : State} (h : exec i s = .next t) :
    t.params = s.params ∧ t.epoch = s.epoch ∧ t.inReset = s.inReset ∧ t.irqEn = s.irqEn ∧ t.cmdOvr = s.cmdOvr
      ∧ t.wrIgn = s.wrIgn ∧ t.lastop = s.lastop ∧ t.arg = s.arg ∧ t.pwlen = s.pwlen ∧ t.opl = s.opl
      ∧ t.port = s.port ∧ t.inputs = s.inputs ∧ t.host = s.host := by
  cases i <;>
    simp only [exec, execSym2val, execVal2sym, execEncgrp, execDecgrp, execEncdig, execDecdig, execChksum, execParse,
      execFormat, execGenerate, execVerify, Host.Outcome.next.injEq] at h <;> subst h
  all_goals
    (repeat' split) <;>
      simp [setupChksum, setupGenerate, setupVerify, chainStep, finishChksum, finishGenerate, finishVerify]
  all_goals (repeat' split) <;> simp

/-- Everything the sequencer's turn can do (40_command_protocol.md R75, R76). -/
theorem sequencerTurn_cases (s : State) :
    ((s.inReset = true ∨ s.phase = .idle) ∧ sequencerTurn s = .next s)
      ∨ (s.inReset = false ∧ s.phase = .setup ∧ (∃ r, decode s.opl = .error r)
          ∧ sequencerTurn s = .next (complete .illegalCommand s))
      ∨ (s.inReset = false ∧ s.phase = .setup ∧ ∃ i, decode s.opl = .ok i ∧ sequencerTurn s = exec i s)
      ∨ (s.inReset = false ∧ s.phase = .chain
          ∧ ∃ i, (i = .chksum ∨ i = .generate ∨ i = .verify) ∧ decode s.opl = .ok i ∧ sequencerTurn s = exec i s)
      ∨ (s.inReset = false ∧ s.phase = .chain ∧ sequencerTurn s = .fault .chainWithoutHashCommand) := by
  unfold sequencerTurn
  cases hr : s.inReset with
  | true => simp
  | false =>
    cases hp : s.phase with
    | idle => simp
    | setup =>
      simp only [setupStep]
      cases hd : decode s.opl with
      | error r => simp
      | ok i => simp
    | chain =>
      simp only [chainPhaseStep]
      cases hd : decode s.opl with
      | error r => simp
      | ok i => cases i <;> simp

/-- Everything a step can be: the first given turn, or the default one (log 1). -/
theorem step_cases (s : State) :
    (∃ t rest, s.inputs = t :: rest ∧ step s = takeTurn t { s with inputs := rest })
      ∨ (s.inputs = [] ∧ s.busy = true ∧ s.inReset = false ∧ step s = sequencerTurn s)
      ∨ (s.inputs = [] ∧ (s.busy = false ∨ s.inReset = true) ∧ step s = hostTurn s) := by
  unfold step nextTurn
  cases hi : s.inputs with
  | cons t rest => exact .inl ⟨t, rest, rfl, rfl⟩
  | nil =>
    simp only [defaultTurn]
    cases hb : s.busy <;> cases hr : s.inReset <;> simp

/-- Going on with a value either stops on a name no RD bound, or goes on with the word the value stands for
(30_encoding.md R68). -/
theorem withValue_cases (v : HostValue) (s : State) (k : Word → Host.Outcome State Fault Refusal) :
    (∃ n, hostValue v s = .error n ∧ withValue v s k = .fault (.hostNameUnbound n))
      ∨ (∃ w, hostValue v s = .ok w ∧ withValue v s k = k w) := by
  unfold withValue
  cases hostValue v s with
  | error n => exact .inl ⟨n, rfl, rfl⟩
  | ok w => exact .inr ⟨w, rfl, rfl⟩

@[simp] theorem withValue_lit (w : Word) (s : State) (k : Word → Host.Outcome State Fault Refusal) :
    withValue (.lit w) s k = k w := rfl

@[simp] theorem withValue_keepIrqEn (s : State) (k : Word → Host.Outcome State Fault Refusal) :
    withValue .keepIrqEn s k = k (0x00000001#32 ||| s.ctrlWord) := rfl

theorem withValue_name {n : Nat} {s : State} {w : Word} (h : lookupVar s.host.vars n = some w)
    (k : Word → Host.Outcome State Fault Refusal) : withValue (.name n) s k = k w := by
  simp [withValue, hostValue, h]

/-- Every line of a host program makes at most one transaction and then moves the host alone, or stops on a name or a
label the program does not have (30_encoding.md R68). -/
theorem hostLine_cases (line : HostLine) (s : State) :
    (∃ h, hostLine line s = .next { s with host := h })
      ∨ (∃ x h, hostLine line s = .next { transact x s with host := h })
      ∨ (∃ n, hostLine line s = .fault (.hostNameUnbound n))
      ∨ (∃ l, hostLine line s = .fault (.hostLabelMissing l)) := by
  cases line with
  | wr off v =>
    obtain ⟨n, -, h⟩ | ⟨w, -, h⟩ :=
      withValue_cases v s fun w => .next (hostAt (s.host.place + 1) (transact (wordWrite s off w) s))
    · exact .inr (.inr (.inl ⟨n, h⟩))
    · exact .inr (.inl ⟨_, _, h⟩)
  | rd off n => exact .inr (.inl ⟨wordRead s off, _, rfl⟩)
  | poll off mask v =>
    simp only [hostLine]
    obtain ⟨n, -, h⟩ | ⟨w, -, h⟩ := withValue_cases v s fun w =>
      .next (if (transact (wordRead s off) s).port.value &&& mask = w
        then hostAt (s.host.place + 1) (transact (wordRead s off) s) else transact (wordRead s off) s)
    · exact .inr (.inr (.inl ⟨n, h⟩))
    · rw [h]
      split
      · exact .inr (.inl ⟨_, _, rfl⟩)
      · exact .inr (.inl ⟨wordRead s off, (transact (wordRead s off) s).host, rfl⟩)
  | label l => exact .inl ⟨_, rfl⟩
  | bne n mask v l =>
    simp only [hostLine, withValue]
    cases hostValue (.name n) s with
    | error m => exact .inr (.inr (.inl ⟨m, rfl⟩))
    | ok x =>
      cases hostValue v s with
      | error m => exact .inr (.inr (.inl ⟨m, rfl⟩))
      | ok w =>
        simp only
        split
        · exact .inl ⟨_, rfl⟩
        · cases labelPlace s.host.prog l with
          | none => exact .inr (.inr (.inr ⟨l, rfl⟩))
          | some k => exact .inl ⟨_, rfl⟩

/-- Everything the host's turn can do. -/
theorem hostTurn_cases (s : State) :
    (s.host.prog[s.host.place]? = none ∧ hostTurn s = .next s)
      ∨ (∃ line, s.host.prog[s.host.place]? = some line ∧ hostTurn s = hostLine line s) := by
  unfold hostTurn
  cases s.host.prog[s.host.place]? with
  | none => exact .inl ⟨rfl, rfl⟩
  | some line => exact .inr ⟨line, rfl, rfl⟩

end Sys2Proof.Machine
end

