-- ==== Sys2Proof/Laws/Run.lean ====
section
/-! SUPPORT. Runs of several steps. -/

namespace Sys2Proof.Machine

@[simp] theorem run_zero (s : State) : run 0 s = .next s := rfl

/-- One step of any machine and then n more. -/
theorem core_run_succ (M : Host.Core) (n : Nat) {s t : M.State} (h : M.step s = .next t) :
    M.run (n + 1) s = M.run n t := by
  simp only [Host.Core.run, h]

/-- A run of any machine that answers a next state starts with a step that does. -/
theorem core_step_of_run_succ (M : Host.Core) (n : Nat) {s t : M.State} (h : M.run (n + 1) s = .next t) :
    ∃ u, M.step s = .next u ∧ M.run n u = .next t := by
  simp only [Host.Core.run] at h
  cases hs : M.step s with
  | next u => exact ⟨u, rfl, by simpa only [hs] using h⟩
  | fault r => simp only [hs] at h; cases h
  | refused r => simp only [hs] at h; cases h

/-- One step and then n more. -/
theorem run_succ {s t : State} (n : Nat) (h : step s = .next t) : run (n + 1) s = run n t :=
  core_run_succ Sys2Proof.core n h

/-- A run of one step is that step. -/
theorem run_one {s t : State} (h : step s = .next t) : run 1 s = .next t := run_succ 0 h

/-- A run of two steps. -/
theorem run_two {s t u : State} (h : step s = .next t) (h' : step t = .next u) : run 2 s = .next u :=
  (run_succ 1 h).trans (run_one h')

/-- A run that answers a next state starts with a step that does. -/
theorem step_of_run_succ {s t : State} {n : Nat} (h : run (n + 1) s = .next t) :
    ∃ u, step s = .next u ∧ run n u = .next t :=
  core_step_of_run_succ Sys2Proof.core n h

/-- m steps and then n more. -/
theorem run_add {s t : State} (m n : Nat) (h : run m s = .next t) : run (m + n) s = run n t := by
  induction m generalizing s with
  | zero =>
    rw [run_zero] at h
    cases h
    rw [Nat.zero_add]
  | succ m ih =>
    obtain ⟨u, hs, hr⟩ := step_of_run_succ h
    rw [Nat.add_right_comm, run_succ (m + n) hs]
    exact ih hr

/-- Left alone, a busy block outside reset takes the sequencer's step (40_command_protocol.md R75; log 1). -/
theorem step_alone {s : State} (hi : s.inputs = []) (hb : s.busy = true) (hr : s.inReset = false) :
    step s = sequencerTurn s := by
  unfold step nextTurn defaultTurn
  simp [hi, hb, hr]

end Sys2Proof.Machine
end

