-- ==== Sys2Proof/Laws/Window.lean ====
section
/-! SUPPORT. The register map said with plain numbers, and the step that takes a bus turn. -/

namespace Sys2Proof.Machine

/-- The offsets inside the buffers (10_state.md R35). -/
theorem inBuffer_iff (p : Params) (a : Nat) :
    inBuffer p a = true ↔
      (0x040 ≤ a ∧ a < 0x048) ∨ (0x050 ≤ a ∧ a < 0x060) ∨ (0x080 ≤ a ∧ a < 0x080 + p.textBufLen)
        ∨ (0x100 ≤ a ∧ a < 0x100 + p.pwBufLen) := by
  simp only [inBuffer, saltBase, digestBase, textBase, pwBase, Bool.or_eq_true, Bool.and_eq_true, decide_eq_true_eq,
    or_assoc]

/-- Above the registers the map has the buffers and nothing else (20_memory.md R45). -/
theorem targetOf_high (p : Params) {off : Nat} (h : 0x030 ≤ off) :
    targetOf p off = if inBuffer p off then some (.cells off) else none := by
  unfold targetOf
  split <;> first | omega | rfl

/-- A word offset inside a buffer selects its four cells (20_memory.md R45, R46). -/
theorem targetOf_bufferOffset (p : Params) {off : Nat} (h : bufferOffset p off) :
    targetOf p off = some (.cells off) := by
  have hb : inBuffer p off = true := by
    rw [inBuffer_iff]
    unfold bufferOffset at h
    omega
  rw [targetOf_high p (by unfold bufferOffset at h; omega), hb, if_pos rfl]

/-- The register map is what 20_memory.md R45 lists: a word offset selects something exactly when it is mapped. -/
theorem targetOf_isSome_iff {p : Params} (hp : p.legal) {off : Nat} (h4 : off % 4 = 0) :
    (targetOf p off).isSome = true ↔ mappedOffset p off := by
  unfold Params.legal Params.baseAligned Params.pwBufLenLegal Params.textBufLenLegal at hp
  unfold mappedOffset
  by_cases h : 0x030 ≤ off
  · rw [targetOf_high p h]
    cases hb : inBuffer p off with
    | true =>
      have := (inBuffer_iff p off).mp hb
      simp only [if_true, Option.isSome_some, true_iff]
      omega
    | false =>
      have : ¬ _ := fun hc => Bool.false_ne_true (hb.symm.trans ((inBuffer_iff p off).mpr hc))
      simp only [Bool.false_eq_true, if_false, Option.isSome_none, false_iff]
      omega
  · have : off ∈ [0x000, 0x004, 0x008, 0x00C, 0x010, 0x014, 0x018, 0x01C, 0x020, 0x024, 0x028, 0x02C] := by
      simp only [List.mem_cons, List.not_mem_nil, or_false]
      omega
    simp only [List.mem_cons, List.not_mem_nil, or_false] at this
    rcases this with h | h | h | h | h | h | h | h | h | h | h | h <;> subst h <;> simp [targetOf]

/-- What a read returns does not depend on the turns still to come. -/
theorem readTarget_inputs (s : State) (l : List Turn) (g : Target) : readTarget { s with inputs := l } g = readTarget s g := by
  cases g <;> rfl

/-- The step that takes a bus turn (20_memory.md R48). -/
theorem step_bus {s : State} {x : Txn} {rest : List Turn} (hi : s.inputs = .bus x :: rest) :
    step s = .next (transact x { s with inputs := rest }) := by
  unfold step nextTurn
  rw [hi]
  rfl

/-- A 32-bit write to a mapped offset outside reset. -/
theorem step_busWrite {s : State} {a : Nat} {w : Word} {rest : List Turn} {g : Target}
    (hi : s.inputs = busWrite a w :: rest) (hr : s.inReset = false) (h4 : windowOffset a % 4 = 0)
    (hg : targetOf s.params (windowOffset a) = some g) :
    step s = .next { writeTarget w { s with inputs := rest } g with port := .ack } := by
  rw [step_bus hi]
  simp [transact, txnTarget, hr, h4, hg]

/-- A 32-bit read of a mapped offset outside reset. -/
theorem step_busRead {s : State} {a : Nat} {rest : List Turn} {g : Target}
    (hi : s.inputs = busRead a :: rest) (hr : s.inReset = false) (h4 : windowOffset a % 4 = 0)
    (hg : targetOf s.params (windowOffset a) = some g) :
    step s = .next { s with inputs := rest, port := .data (readTarget s g) } := by
  rw [step_bus hi, ← readTarget_inputs s rest g]
  simp [transact, txnTarget, hr, h4, hg]

/-- A transaction during reset gets the bus-error response (70_reset_and_hazards.md R160). -/
theorem transact_inReset {s : State} (x : Txn) (hr : s.inReset = true) : transact x s = { s with port := .busError } := by
  simp [transact, txnTarget, hr]

end Sys2Proof.Machine
end

