-- ==== Sys2Proof/Tests/Slice0.lean ====
section
/-! SUPPORT. Tests: well-formedness, decoding, one step of each command on the vectors of 95_test_vectors.md, and for each
obligation with hypotheses a state and operands that meet them. -/

namespace Sys2Proof.Tests

open Sys2Proof Sys2Proof.Machine

/-! What the tests build on. -/

/-- The state an outcome answers. -/
def nextOf (o : Host.Outcome State Fault Refusal) : Option State :=
  match o with
  | .next s => some s
  | .fault _ => none
  | .refused _ => none

/-- The reset state with a word in ARG. -/
def withArg (v : Word) : State := { State.reset with arg := v }

/-- The reset state with a text in TEXT and its length in TEXTLEN. -/
def withText (t : List Byte) : State := State.reset.putText t

/-- The reset state with a digest in DIGEST and a salt in SALT. -/
def withFields (e : Sextet) (S D : List Byte) : State :=
  { (State.reset.putBytes saltBase S).putBytes digestBase D with exp := e }

/-- The step that runs a command from a state at which its word has just been accepted. -/
def runs (i : Instr) (s : State) : Option State := nextOf (step (s.withFetchWord 32 (encode i).toNat))

/-- A state busy in phase SETUP of a command, with turns to come. -/
def atSetup (i : Instr) (l : List Turn) : State := { accept (encode i) State.reset with inputs := l }

/-- A state in phase CHAIN of a command, with turns to come, H and ITER given. -/
def atChain (i : Instr) (h : BitVec 128) (n : BitVec 64) (l : List Turn) : State :=
  { accept (encode i) State.reset with inputs := l, phase := .chain, h := h, iter := n }

/-- The reset state with turns to come. -/
def idleWith (l : List Turn) : State := { State.reset with inputs := l }

/-- The fixture record of 95_test_vectors.md V-L1-3. -/
def fixture : List Byte :=
  [0x24#8, 0x50#8, 0x24#8, 0x42#8, 0x67#8, 0x55#8, 0x64#8, 0x71#8, 0x31#8, 0x52#8, 0x7A#8, 0x45#8,
    0x42#8, 0x59#8, 0x64#8, 0x39#8, 0x54#8, 0x6D#8, 0x2F#8, 0x75#8, 0x5A#8, 0x43#8, 0x37#8, 0x6D#8,
    0x7A#8, 0x2F#8, 0x6C#8, 0x35#8, 0x46#8, 0x2E#8, 0x78#8, 0x34#8, 0x4E#8, 0x31#8]

/-- Its salt. -/
def fixtureSalt : List Byte := [0x67#8, 0x55#8, 0x64#8, 0x71#8, 0x31#8, 0x52#8, 0x7A#8, 0x45#8]

/-- Its digest. -/
def fixtureDigest : List Byte :=
  [0x0D#8, 0x99#8, 0x2E#8, 0x9F#8, 0x1C#8, 0xE8#8, 0xA5#8, 0x93#8, 0xC8#8, 0x7F#8, 0x10#8, 0x1F#8,
    0x11#8, 0xD0#8, 0x1B#8, 0xD9#8]

/-- A salt of eight dots. -/
def dots : List Byte := List.replicate 8 0x2E#8

/-! Well-formedness: one ill-formed term for each check. -/

theorem test_wf_spec_params : Params.spec.legal := by decide
theorem test_wf_base_refused : ¬ ({ Params.spec with base := 4 } : Params).legal := by decide
theorem test_wf_pw_zero_refused : ¬ ({ Params.spec with pwBufLen := 0 } : Params).legal := by decide
theorem test_wf_pw_large_refused : ¬ ({ Params.spec with pwBufLen := 260 } : Params).legal := by decide
theorem test_wf_pw_odd_refused : ¬ ({ Params.spec with pwBufLen := 254 } : Params).legal := by decide
theorem test_wf_text_small_refused : ¬ ({ Params.spec with textBufLen := 32 } : Params).legal := by decide
theorem test_wf_text_large_refused : ¬ ({ Params.spec with textBufLen := 68 } : Params).legal := by decide
theorem test_wf_text_odd_refused : ¬ ({ Params.spec with textBufLen := 38 } : Params).legal := by decide
theorem test_wf_reserved_refused : ¬ legalCommandWord 0x00000011#32 := by decide
theorem test_wf_opcode_zero_refused : ¬ legalCommandWord 0x00000000#32 := by decide
theorem test_wf_opcode_high_refused : ¬ legalCommandWord 0x0000000C#32 := by decide
theorem test_wf_memory_refused : ¬ Memory.wf [(0x041, 0x00#8), (0x040, 0x00#8)] := by decide

/-! Decoding, from the opcode map of 30_encoding.md R63; the words are written out bit by bit, bit 31 first. -/

theorem test_decode_sym2val : decode 0b0000_0000_0000_0000_0000_0000_0000_0001#32 = .ok .sym2val := rfl
theorem test_decode_val2sym : decode 0b0000_0000_0000_0000_0000_0000_0000_0010#32 = .ok .val2sym := rfl
theorem test_decode_encgrp : decode 0b0000_0000_0000_0000_0000_0000_0000_0011#32 = .ok .encgrp := rfl
theorem test_decode_decgrp : decode 0b0000_0000_0000_0000_0000_0000_0000_0100#32 = .ok .decgrp := rfl
theorem test_decode_encdig : decode 0b0000_0000_0000_0000_0000_0000_0000_0101#32 = .ok .encdig := rfl
theorem test_decode_decdig : decode 0b0000_0000_0000_0000_0000_0000_0000_0110#32 = .ok .decdig := rfl
theorem test_decode_chksum : decode 0b0000_0000_0000_0000_0000_0000_0000_0111#32 = .ok .chksum := rfl
theorem test_decode_parse : decode 0b0000_0000_0000_0000_0000_0000_0000_1000#32 = .ok .parse := rfl
theorem test_decode_format : decode 0b0000_0000_0000_0000_0000_0000_0000_1001#32 = .ok .format := rfl
theorem test_decode_generate : decode 0b0000_0000_0000_0000_0000_0000_0000_1010#32 = .ok .generate := rfl
theorem test_decode_verify : decode 0b0000_0000_0000_0000_0000_0000_0000_1011#32 = .ok .verify := rfl
theorem test_decode_zero : decode 0x00000000#32 = .error (.illegalOpcode 0x0#4) := rfl
theorem test_decode_c : decode 0x0000000C#32 = .error (.illegalOpcode 0xC#4) := rfl
theorem test_decode_f : decode 0x0000000F#32 = .error (.illegalOpcode 0xF#4) := rfl
theorem test_decode_bit4 : decode 0x00000011#32 = .error .reservedBits := rfl
theorem test_decode_bit31 : decode 0x80000001#32 = .error .reservedBits := rfl
theorem test_decode_bytes : decodeBytes [0x0B#8, 0x00#8, 0x00#8, 0x00#8] = .ok .verify := rfl
theorem test_decode_short : decodeBytes [0x0B#8, 0x00#8] = .error .notOneWord := rfl

/-! One step of each command; expected values from 95_test_vectors.md. -/

/-- V-L2-SYM-6. -/
theorem test_sym2val_B :
    (runs .sym2val (withArg 0x00000042)).map (fun t => (t.statusWord, t.result)) = some (0x00001002#32, 0x0000000D#32) := by
  decide

/-- V-L2-SYM-20: bit 8 of ARG is checked before the symbol. -/
theorem test_sym2val_wide :
    (runs .sym2val (withArg 0x0000012E)).map (fun t => (t.statusWord, t.result)) = some (0x00001906#32, 0#32) := by
  decide

/-- V-L2-VAL-9. -/
theorem test_val2sym_63 :
    (runs .val2sym (withArg 63)).map (fun t => (t.statusWord, t.result)) = some (0x00002002#32, 0x0000007A#32) := by
  decide

/-- V-L2-VAL-10. -/
theorem test_val2sym_64 :
    (runs .val2sym (withArg 64)).map (fun t => (t.statusWord, t.result)) = some (0x00002906#32, 0#32) := by
  decide

/-- V-L2-ENCGRP-8: four different symbols. -/
theorem test_encgrp_order :
    (runs .encgrp (withArg 0x00030201)).map (fun t => (t.statusWord, t.result)) = some (0x00003002#32, 0x2E6B362F#32) := by
  decide

/-- V-L2-ENCGRP-11. -/
theorem test_encgrp_wide :
    (runs .encgrp (withArg 0x01000000)).map (fun t => (t.statusWord, t.result)) = some (0x00003906#32, 0#32) := by
  decide

/-- V-L2-DECGRP-5: four different symbols. -/
theorem test_decgrp_order :
    (runs .decgrp (withArg 0x2E302F31)).map (fun t => (t.statusWord, t.result)) = some (0x00004002#32, 0x00002043#32) := by
  decide

/-- V-L2-DECGRP-10: the bad byte is in lane 2. -/
theorem test_decgrp_lane :
    (runs .decgrp (withArg 0x2E002E2E)).map (fun t => (t.statusWord, t.result)) = some (0x00004706#32, 0#32) := by
  decide

/-- V-L2-ENCDIG-3. -/
theorem test_encdig_text :
    (runs .encdig (withFields 0 dots (leBytes 16 0x0F0E0D0C0B0A09080706050403020100#128))).map
        (fun t => (t.statusWord, t.textlen, t.bytesAt textBase 22))
      = some (0x00005002#32, 22#8,
          [0x2E#8, 0x32#8, 0x55#8, 0x2E#8, 0x31#8, 0x45#8, 0x45#8, 0x2F#8, 0x34#8, 0x51#8, 0x2E#8, 0x30#8,
    0x37#8, 0x63#8, 0x6B#8, 0x30#8, 0x41#8, 0x6F#8, 0x55#8, 0x31#8, 0x44#8, 0x2E#8]) := by
  decide

/-- V-L2-DECDIG-3: a field with discarded bits that are not zero. -/
theorem test_decdig_noncanon :
    (runs .decdig (withText (fixture.drop 12 |>.take 21 |>.append [0x35#8]))).map
        (fun t => (t.statusWord, t.bytesAt digestBase 16))
      = some (0x00006012#32, fixtureDigest) := by
  decide

/-- V-L2-DECDIG-11: the alphabet check comes before the length. -/
theorem test_decdig_order :
    (runs .decdig (withText (0x24#8 :: List.replicate 22 0x2E#8))).map (fun t => t.statusWord) = some 0x00006406#32 := by
  decide

/-- V-L2-CHK-12, the SETUP step: ITER and the seed hash. -/
theorem test_chksum_setup :
    (runs .chksum { (withFields 1 dots []).putBytes pwBase [0x61#8] with pwlen := 1#16 }).map
        (fun t => (t.statusWord, t.iter, leBytes 16 t.h))
      = some (0x00007001#32, 2#64,
          [0xAD#8, 0x5A#8, 0x25#8, 0xE2#8, 0x35#8, 0xBE#8, 0x63#8, 0x51#8, 0x92#8, 0xAC#8, 0x8B#8, 0x30#8,
    0x31#8, 0x96#8, 0x47#8, 0x64#8]) := by
  decide +kernel

/-- V-L2-CHK-12, chain step 1. -/
theorem test_chksum_chain :
    (nextOf (step { (atChain .chksum (leVec 128
          [0xAD#8, 0x5A#8, 0x25#8, 0xE2#8, 0x35#8, 0xBE#8, 0x63#8, 0x51#8, 0x92#8, 0xAC#8, 0x8B#8, 0x30#8,
    0x31#8, 0x96#8, 0x47#8, 0x64#8]) 2#64 []).putBytes pwBase [0x61#8] with
          pwlen := 1#16 })).map (fun t => (t.statusWord, t.iter, leBytes 16 t.h))
      = some (0x00007001#32, 1#64,
          [0xB4#8, 0x58#8, 0xD3#8, 0x40#8, 0x1F#8, 0x73#8, 0xFF#8, 0x05#8, 0x05#8, 0x84#8, 0x7F#8, 0xC9#8,
    0x49#8, 0xCB#8, 0x0C#8, 0x74#8]) := by
  decide +kernel

/-- V-L2-PARSE-4: the fixture with last symbol `5`. -/
theorem test_parse_noncanon :
    (runs .parse (withText (fixture.take 33 ++ [0x35#8]))).map
        (fun t => (t.statusWord, t.exp, t.bytesAt saltBase 8, t.bytesAt digestBase 16))
      = some (0x00008012#32, 13#6, fixtureSalt, fixtureDigest) := by
  decide

/-- V-L2-PARSE-13: an invalid byte after the record gives code 4, not 5. -/
theorem test_parse_order :
    (runs .parse (withText (fixture ++ [0x21#8]))).map (fun t => (t.statusWord, t.exp)) = some (0x00008406#32, 0#6) := by
  decide

/-- V-L2-FMT-1. -/
theorem test_format_fixture :
    (runs .format (withFields 13 fixtureSalt fixtureDigest)).map (fun t => (t.statusWord, t.textlen, t.text))
      = some (0x00009002#32, 34#8, fixture) := by
  decide

/-- V-L2-GEN-1, the finishing step. -/
theorem test_generate_finish :
    (nextOf (step { (atChain .generate (leVec 128 fixtureDigest) 0#64 []).putBytes saltBase fixtureSalt with
          exp := 13#6 })).map (fun t => (t.statusWord, t.text, t.bytesAt digestBase 16))
      = some (0x0000A002#32, fixture, fixtureDigest) := by
  decide

/-- V-L2-GEN-4. -/
theorem test_generate_long_password :
    (runs .generate { withFields 3 dots [] with pwlen := 300#16 }).map (fun t => (t.statusWord, t.textlen))
      = some (0x0000A906#32, 0#8) := by
  decide

/-- V-L2-VFY-7: no field is written. -/
theorem test_verify_identifier :
    (runs .verify (withText ([0x24#8, 0x48#8, 0x24#8] ++ fixture.drop 3))).map (fun t => (t.statusWord, t.iter))
      = some (0x0000B206#32, 0#64) := by
  decide

/-- V-L2-VFY-5, the finishing step: equal digests and a record with discarded bits that are not zero. -/
theorem test_verify_finish :
    (nextOf (step { atChain .verify (leVec 128 fixtureDigest) 0#64 [] with pd := leVec 128 fixtureDigest, pnc := true })).map
        (fun t => t.statusWord)
      = some 0x0000B01A#32 := by
  decide

/-- V-L2-BUS-7: reserved bits of EXP are not stored. -/
theorem test_write_exp :
    (nextOf (step (idleWith [busWrite 0x01C 0xFFFFFF7F]))).map (fun t => (t.exp, t.port)) = some (0x3F#6, Response.ack) := by
  decide

/-- V-L2-BUS-8, the second word of the fixture. -/
theorem test_read_text :
    (nextOf (step { withText fixture with inputs := [busRead 0x084] })).map (fun t => t.port)
      = some (Response.data 0x71645567#32) := by
  decide

/-- V-L2-BUS-3: offset 0x0C0 is unmapped for a TEXT buffer of 64 bytes. -/
theorem test_read_unmapped :
    (nextOf (step (idleWith [busRead 0x0C0]))).map (fun t => t.port) = some Response.busError := by
  decide

/-! Each obligation's hypotheses are met together, clause by clause. -/

theorem witness_StepRunsDecodedCommand :
    ((atSetup .sym2val []).inReset = false ∧ decode (atSetup .sym2val []).opl = .ok .sym2val
        ∧ (atSetup .sym2val []).phase = .setup ∧ (atSetup .sym2val []).inputs = [])
      ∧ ((atChain .verify 0#128 1#64 [.sequencer]).inReset = false
        ∧ decode (atChain .verify 0#128 1#64 [.sequencer]).opl = .ok .verify
        ∧ (atChain .verify 0#128 1#64 [.sequencer]).phase = .chain
        ∧ (atChain .verify 0#128 1#64 [.sequencer]).inputs = .sequencer :: []) :=
  ⟨⟨rfl, rfl, rfl, rfl⟩, ⟨rfl, rfl, rfl, rfl⟩⟩

theorem witness_IllegalWordCompletes :
    (∀ w : Word, (idleWith [busWrite 0x00C w]).inReset = false ∧ (idleWith [busWrite 0x00C w]).phase = .idle
        ∧ windowOffset 0x00C = 0x00C ∧ (idleWith [busWrite 0x00C w]).inputs = [busWrite 0x00C w])
      ∧ ((0x00000000#32).extractLsb' 0 4).toNat ∈ [0x0, 0xC, 0xD, 0xE, 0xF]
      ∧ ((0x0000000F#32).extractLsb' 0 4).toNat ∈ [0x0, 0xC, 0xD, 0xE, 0xF]
      ∧ (0x00000011#32).extractLsb' 4 28 ≠ 0#28 ∧ (0x80000001#32).extractLsb' 4 28 ≠ 0#28 :=
  ⟨fun _ => ⟨rfl, rfl, rfl, rfl⟩, by decide⟩

theorem witness_CmdWriteWhileIdleAccepts :
    (idleWith [busWrite 0x20C 0x7]).inReset = false ∧ (idleWith [busWrite 0x20C 0x7]).phase = .idle
      ∧ windowOffset 0x20C = 0x00C ∧ (idleWith [busWrite 0x20C 0x7]).inputs = busWrite 0x20C 0x7 :: [] := by decide

theorem witness_CmdWriteWhileBusyDropped :
    (atSetup .parse [busWrite 0x00C 0x7]).inReset = false ∧ (atSetup .parse [busWrite 0x00C 0x7]).phase ≠ .idle
      ∧ windowOffset 0x00C = 0x00C ∧ (atSetup .parse [busWrite 0x00C 0x7]).inputs = busWrite 0x00C 0x7 :: [] := by decide

theorem witness_OperandWritesWhileBusyDropped :
    (∀ a ∈ [0x014, 0x01C, 0x020, 0x024],
        (atSetup .parse [busWrite a 0x7]).inReset = false ∧ (atSetup .parse [busWrite a 0x7]).phase ≠ .idle
          ∧ windowOffset a ∈ [0x014, 0x01C, 0x020, 0x024]
          ∧ (atSetup .parse [busWrite a 0x7]).inputs = busWrite a 0x7 :: [])
      ∧ ∀ a ∈ [0x040, 0x044, 0x050, 0x05C, 0x080, 0x0BC, 0x100, 0x1FC],
        (atChain .chksum 0#128 1#64 [busWrite a 0x7]).inReset = false
          ∧ (atChain .chksum 0#128 1#64 [busWrite a 0x7]).phase ≠ .idle ∧ windowOffset a % 4 = 0
          ∧ bufferOffset (atChain .chksum 0#128 1#64 [busWrite a 0x7]).params (windowOffset a)
          ∧ (atChain .chksum 0#128 1#64 [busWrite a 0x7]).inputs = busWrite a 0x7 :: [] := by decide

theorem witness_OperandRegisterWritesWhileIdle :
    ∀ a ∈ [0x014, 0x01C, 0x020, 0x024],
      (idleWith [busWrite a 0xFFFFFFFF]).inReset = false ∧ (idleWith [busWrite a 0xFFFFFFFF]).phase = .idle
        ∧ (idleWith [busWrite a 0xFFFFFFFF]).inputs = busWrite a 0xFFFFFFFF :: [] ∧ windowOffset a = a := by decide

theorem witness_BufferWordsAreLittleEndian :
    ∀ a ∈ [0x040, 0x044, 0x05C, 0x0BC, 0x1FC],
      windowOffset a % 4 = 0 ∧ bufferOffset State.reset.params (windowOffset a)
        ∧ (idleWith [busWrite a 0x03020100]).inReset = false ∧ (idleWith [busWrite a 0x03020100]).phase = .idle
        ∧ (idleWith [busWrite a 0x03020100]).inputs = busWrite a 0x03020100 :: []
        ∧ (idleWith [busRead a]).inReset = false ∧ (idleWith [busRead a]).inputs = busRead a :: [] := by decide

theorem witness_TransactionBusErrors :
    State.reset.params.legal
      ∧ ({ idleWith [busRead 0x000] with inReset := true }.inReset = true)
      ∧ (Txn.mk 0x000 .half .read).width ≠ .word ∧ (Txn.mk 0x1FE .word .read).addr % 512 % 4 ≠ 0
      ∧ (∀ a ∈ [0x030, 0x048, 0x060, 0x0C0], ¬ mappedOffset State.reset.params (a % 512))
      ∧ ¬ mappedOffset ({ Params.spec with pwBufLen := 4 } : Params) (0x104 % 512)
      ∧ ∀ a ∈ [0x000, 0x02C, 0x040, 0x044, 0x0BC, 0x1FC],
          (idleWith [busRead a]).inReset = false ∧ (Txn.mk a .word .read).width = .word ∧ a % 512 % 4 = 0
            ∧ mappedOffset State.reset.params (a % 512) := by decide

theorem witness_RegisterReads :
    ∀ a ∈ [0x000, 0x004, 0x008, 0x00C, 0x010, 0x014, 0x018, 0x01C, 0x020, 0x024, 0x028, 0x02C],
      (idleWith [busRead a]).inReset = false ∧ (idleWith [busRead a]).inputs = busRead a :: [] ∧ windowOffset a = a := by
  decide

theorem witness_ReadsHaveNoSideEffect :
    (Txn.mk 0x010 .word .read).access = .read
      ∧ (idleWith [busRead 0x010, busRead 0x010]).inputs
          = .bus (Txn.mk 0x010 .word .read) :: .bus (Txn.mk 0x010 .word .read) :: [] := by decide

theorem witness_ReadOnlyAndReservedWritesIgnored :
    (∀ a ∈ [0x000, 0x004, 0x018, 0x028, 0x02C],
        windowOffset a ∈ [0x000, 0x004, 0x018, 0x028, 0x02C] ∧ (idleWith [busWrite a 0x5]).inReset = false
          ∧ (idleWith [busWrite a 0x5]).inputs = busWrite a 0x5 :: [])
      ∧ (windowOffset 0x008 = 0x008 ∧ (0xFFFFFFFE#32).extractLsb' 0 2 = (0x00000002#32).extractLsb' 0 2)
      ∧ (windowOffset 0x010 = 0x010 ∧ 0xFFFFFFFF#32 &&& 0x00000062#32 = 0x00000062#32 &&& 0x00000062#32)
      ∧ (windowOffset 0x01C = 0x01C ∧ (0xFFFFFF7F#32).extractLsb' 0 6 = (0x0000003F#32).extractLsb' 0 6)
      ∧ (windowOffset 0x020 = 0x020 ∧ (0x12345678#32).extractLsb' 0 16 = (0x00005678#32).extractLsb' 0 16)
      ∧ (windowOffset 0x024 = 0x024 ∧ (0x000001FF#32).extractLsb' 0 8 = (0x000000FF#32).extractLsb' 0 8) := by decide

theorem witness_StatusWriteClears :
    (idleWith [busWrite 0x010 0x62]).inReset = false ∧ windowOffset 0x010 = 0x010
      ∧ (idleWith [busWrite 0x010 0x62]).inputs = busWrite 0x010 0x62 :: [] := by decide

theorem witness_CtrlWriteAndAbort :
    windowOffset 0x008 = 0x008
      ∧ ((atChain .chksum 0#128 1#64 [busWrite 0x008 0x1]).inReset = false
        ∧ (atChain .chksum 0#128 1#64 [busWrite 0x008 0x1]).inputs = busWrite 0x008 0x1 :: []
        ∧ (atChain .chksum 0#128 1#64 [busWrite 0x008 0x1]).phase ≠ .idle ∧ (0x1#32).getLsbD 0 = true)
      ∧ ((idleWith [busWrite 0x008 0x3]).inReset = false
        ∧ (idleWith [busWrite 0x008 0x3]).inputs = busWrite 0x008 0x3 :: [] ∧ (idleWith [busWrite 0x008 0x3]).phase = .idle)
      ∧ ((atSetup .parse [busWrite 0x008 0x2]).inReset = false
        ∧ (atSetup .parse [busWrite 0x008 0x2]).inputs = busWrite 0x008 0x2 :: [] ∧ (0x2#32).getLsbD 0 = false) := by decide

theorem witness_AbortAgainstCompletion :
    (atSetup .sym2val []).inReset = false ∧ (atSetup .sym2val []).phase ≠ .idle ∧ windowOffset 0x008 = 0x008
      ∧ (0x3#32).getLsbD 0 = true
      ∧ ∃ t, step { atSetup .sym2val [] with inputs := [] } = .next t ∧ t.phase = .idle :=
  ⟨rfl, by decide, rfl, rfl, complete .invalidCharacter (atSetup .sym2val []), rfl, rfl⟩

theorem witness_IrqLine :
    (State.reset.inReset = false) ∧ (({ State.reset with inReset := true } : State).inReset = true) := by decide

theorem witness_ResetReleaseValues :
    ({ idleWith [.releaseReset] with inReset := true } : State).inReset = true
      ∧ ({ idleWith [.releaseReset] with inReset := true } : State).inputs = .releaseReset :: [] := by decide

theorem witness_DuringReset :
    ({ idleWith [busRead 0x000] with inReset := true } : State).inReset = true
      ∧ ({ idleWith [busRead 0x000] with inReset := true } : State).inputs = .bus (Txn.mk 0x000 .word .read) :: []
      ∧ ({ atSetup .parse [.sequencer] with inReset := true } : State).inReset = true
      ∧ ({ atSetup .parse [.sequencer] with inReset := true } : State).inputs = .sequencer :: [] := by decide

theorem witness_ResetEndsCommand :
    (atChain .chksum 0#128 1#64 [.assertReset, .releaseReset]).inReset = false
      ∧ (atChain .chksum 0#128 1#64 [.assertReset, .releaseReset]).phase ≠ .idle
      ∧ (atChain .chksum 0#128 1#64 [.assertReset, .releaseReset]).inputs = [.assertReset, .releaseReset] := by decide

theorem witness_FirstCommandsAfterReset :
    Params.spec.legal ∧ ({ base := 512, pwBufLen := 4, textBufLen := 36 } : Params).legal := by decide

theorem witness_GroupRoundTrip :
    decodeGroup 0x31#8 0x2F#8 0x30#8 0x2E#8 = some (0x43#8, 0x20#8, 0x00#8)
      ∧ decodeGroup 0x2E#8 0x2E#8 0x00#8 0x2E#8 = none := by decide

theorem witness_DigestDecodeOutcomes :
    (∃ c ∈ [0x24#8], c ∉ legacyAlphabet)
      ∧ ((∀ c ∈ List.replicate 21 0x2E#8, c ∈ legacyAlphabet) ∧ (List.replicate 21 0x2E#8).length ≠ 22)
      ∧ ((List.replicate 22 0#6).length = 22 ∧ List.replicate 22 0x2E#8 = (List.replicate 22 0#6).map symbolOf
        ∧ digestOfValues (List.replicate 22 0#6) 0#128) := by decide

theorem witness_DigestFieldRoundTrip : dec22 (List.replicate 22 0x2E#8) = .ok (0#128, false) := rfl

theorem witness_RightToLeftDecodingAgrees : (List.replicate 22 63#6).length = 22 := rfl

theorem witness_RecordRoundTrip :
    ∃ r, parseRec (List.append [0x24#8, 0x50#8, 0x24#8] (List.replicate 31 0x2E#8)) = .ok r ∧ r.nonCanon = false :=
  ⟨_, rfl, rfl⟩

theorem witness_PaddedMessage : ([] : List Byte).length < 1 ∧ 1 + 8 < (md5Pad []).length := by decide

theorem witness_ExponentIncrementDoublesChain : (0#6).toNat < 63 ∧ (62#6).toNat < 63 := by decide

theorem witness_Sym2valResult :
    (withArg 0x00000100).arg.extractLsb' 8 24 ≠ 0#24
      ∧ ((withArg 0x00000024).arg = 0#24 ++ 0x24#8 ∧ 0x24#8 ∉ legacyAlphabet)
      ∧ ((withArg 0x0000007A).arg = 0#24 ++ 0x7A#8 ∧ symbolOf 63#6 = 0x7A#8) := by decide

theorem witness_Val2symResult :
    (withArg 64).arg.extractLsb' 6 26 ≠ 0#26 ∧ (withArg 63).arg = 0#26 ++ 63#6 := by decide

theorem witness_EncgrpResult :
    (withArg 0x01000000).arg.extractLsb' 24 8 ≠ 0#8 ∧ (withArg 0x00FFFFFF).arg.extractLsb' 24 8 = 0#8 := by decide

theorem witness_DecgrpResult :
    (∃ k < 4, (withArg 0x242E2E2E).arg.extractLsb' (8 * k) 8 ∉ legacyAlphabet)
      ∧ ∀ k < 4, (withArg 0x7A2E5A41).arg.extractLsb' (8 * k) 8 ∈ legacyAlphabet :=
  ⟨⟨3, by decide, by decide⟩, by decide⟩

theorem witness_EncdigResult :
    ∀ j < 16, byteOf (leVec 128 fixtureDigest) j = (withFields 0 dots fixtureDigest).byteAt (0x050 + j) := by
  decide

/-- The smallest legal TEXT buffer, full of dots. -/
def longText : State :=
  { withText (List.replicate 36 0x2E#8) with params := { base := 0, pwBufLen := 4, textBufLen := 36 } }

theorem witness_DecdigResult :
    ({ State.reset with textlen := 65#8 } : State).params.textBufLen
        < ({ State.reset with textlen := 65#8 } : State).textlen.toNat
      ∧ ((withText [0x24#8]).textlen.toNat ≤ (withText [0x24#8]).params.textBufLen
        ∧ ∃ c ∈ (withText [0x24#8]).bytesAt 0x080 (withText [0x24#8]).textlen.toNat, c ∉ legacyAlphabet)
      ∧ (longText.textlen.toNat ≤ longText.params.textBufLen
        ∧ (∀ c ∈ longText.bytesAt 0x080 longText.textlen.toNat, c ∈ legacyAlphabet) ∧ longText.textlen ≠ 22#8)
      ∧ ((withText (fixture.drop 12)).textlen.toNat ≤ (withText (fixture.drop 12)).params.textBufLen
        ∧ (∀ c ∈ (withText (fixture.drop 12)).bytesAt 0x080 22, c ∈ legacyAlphabet)
        ∧ (withText (fixture.drop 12)).textlen = 22#8) := by decide

theorem witness_HashCommandSetup :
    (atSetup .chksum []).phase = .setup ∧ (atSetup .generate []).phase = .setup
      ∧ ({ atSetup .chksum [] with pwlen := 257#16 } : State).params.pwBufLen
          < ({ atSetup .chksum [] with pwlen := 257#16 } : State).pwlen.toNat
      ∧ ({ atSetup .chksum [] with pwlen := 256#16 } : State).pwlen.toNat
          ≤ ({ atSetup .chksum [] with pwlen := 256#16 } : State).params.pwBufLen := by decide

theorem witness_HashCommandChainStep :
    (atChain .verify 0#128 1#64 []).phase = .chain ∧ (atChain .verify 0#128 1#64 []).iter ≠ 0#64 := by decide

theorem witness_ChksumFinish :
    (atChain .chksum 0#128 0#64 []).phase = .chain ∧ (atChain .chksum 0#128 0#64 []).iter = 0#64 := by decide

theorem witness_GenerateFinish :
    (atChain .generate 0#128 0#64 []).phase = .chain ∧ (atChain .generate 0#128 0#64 []).iter = 0#64 := by decide

/-- The fixture in TEXT and VERIFY just accepted. -/
def verifySetup : State := { (atSetup .verify []).putText fixture with pwlen := 0#16 }

/-- Its text with the bad last byte `!`. -/
def verifySetupBad : State := (atSetup .verify []).putText (fixture.take 33 ++ [0x21#8])

theorem witness_VerifySetup :
    (({ verifySetup with textlen := 65#8 } : State).phase = .setup
        ∧ ({ verifySetup with textlen := 65#8 } : State).params.textBufLen
          < ({ verifySetup with textlen := 65#8 } : State).textlen.toNat)
      ∧ (({ verifySetup with pwlen := 257#16 } : State).params.pwBufLen
          < ({ verifySetup with pwlen := 257#16 } : State).pwlen.toNat)
      ∧ (verifySetupBad.phase = .setup ∧ verifySetupBad.textlen.toNat ≤ verifySetupBad.params.textBufLen
        ∧ verifySetupBad.pwlen.toNat ≤ verifySetupBad.params.pwBufLen
        ∧ recordFailure (verifySetupBad.bytesAt 0x080 verifySetupBad.textlen.toNat) = some .decodeFailure)
      ∧ (verifySetup.phase = .setup ∧ verifySetup.textlen.toNat ≤ verifySetup.params.textBufLen
        ∧ verifySetup.pwlen.toNat ≤ verifySetup.params.pwBufLen
        ∧ recordFailure (verifySetup.bytesAt 0x080 verifySetup.textlen.toNat) = none) := by decide

theorem witness_VerifyFinish :
    ((atChain .verify 5#128 0#64 []).phase = .chain ∧ (atChain .verify 5#128 0#64 []).iter = 0#64
        ∧ ∃ j < 16, byteOf (atChain .verify 5#128 0#64 []).h j ≠ byteOf (atChain .verify 5#128 0#64 []).pd j)
      ∧ ∀ j < 16, byteOf (atChain .verify 0#128 0#64 []).h j = byteOf (atChain .verify 0#128 0#64 []).pd j :=
  ⟨⟨rfl, rfl, 0, by decide, by decide⟩, by decide⟩

theorem witness_ParseResult :
    ({ State.reset with textlen := 65#8 } : State).params.textBufLen
        < ({ State.reset with textlen := 65#8 } : State).textlen.toNat
      ∧ (verifySetupBad.textlen.toNat ≤ verifySetupBad.params.textBufLen
        ∧ recordFailure (verifySetupBad.bytesAt 0x080 verifySetupBad.textlen.toNat) = some .decodeFailure)
      ∧ ((withText fixture).textlen.toNat ≤ (withText fixture).params.textBufLen
        ∧ recordFailure ((withText fixture).bytesAt 0x080 (withText fixture).textlen.toNat) = none) := by decide

theorem witness_FormatResult :
    ∀ j < 16, byteOf (leVec 128 fixtureDigest) j = (withFields 13 fixtureSalt fixtureDigest).byteAt (0x050 + j) := by
  decide

theorem witness_ChksumRun :
    (atSetup .chksum []).inReset = false ∧ (atSetup .chksum []).inputs = [] ∧ (atSetup .chksum []).phase = .setup
      ∧ (atSetup .chksum []).opl = encode .chksum
      ∧ (atSetup .chksum []).pwlen.toNat ≤ (atSetup .chksum []).params.pwBufLen := by decide

theorem witness_GenerateRun :
    (atSetup .generate []).inReset = false ∧ (atSetup .generate []).inputs = [] ∧ (atSetup .generate []).phase = .setup
      ∧ (atSetup .generate []).opl = encode .generate
      ∧ (atSetup .generate []).pwlen.toNat ≤ (atSetup .generate []).params.pwBufLen := by decide

/-- The symbol values of the fixture's digest field (95_test_vectors.md V-L1-3, 30_encoding.md R69). -/
def fixtureValues : List Sextet :=
  [13#6, 36#6, 41#6, 11#6, 31#6, 50#6, 1#6, 58#6, 37#6, 14#6, 9#6, 50#6, 63#6, 1#6, 49#6, 7#6, 17#6, 0#6, 61#6, 6#6, 25#6, 3#6]

theorem witness_VerifyRun :
    verifySetup.inReset = false ∧ verifySetup.inputs = [] ∧ verifySetup.phase = .setup
      ∧ verifySetup.opl = encode .verify ∧ verifySetup.textlen.toNat ≤ verifySetup.params.textBufLen
      ∧ verifySetup.pwlen.toNat ≤ verifySetup.params.pwBufLen ∧ fixtureSalt.length = 8 ∧ fixtureValues.length = 22
      ∧ verifySetup.text = recordText 13#6 fixtureSalt fixtureValues
      ∧ digestOfValues fixtureValues (leVec 128 fixtureDigest) := by decide +kernel

theorem witness_GenerateThenParseAndVerify :
    (atSetup .generate []).params.legal ∧ (atSetup .generate []).inReset = false ∧ (atSetup .generate []).inputs = []
      ∧ (atSetup .generate []).phase = .setup ∧ (atSetup .generate []).opl = encode .generate
      ∧ (atSetup .generate []).pwlen.toNat ≤ (atSetup .generate []).params.pwBufLen ∧ windowOffset 0x00C = 0x00C := by
  decide

/-- The block just after the acceptance of CHKSUM has the invariants. -/
theorem inv_atSetup (l : List Turn) : (atSetup .chksum l).Inv where
  paramsLegal := (by decide : Params.spec.legal)
  memWf := List.Pairwise.nil
  memInBuffers := by intro c hc; cases hc
  chainHash := by intro h; cases h
  chainPassword := by intro h; cases h
  chainIter := by intro h; cases h
  busyClear := fun _ => ⟨rfl, rfl, rfl, rfl⟩
  busyLastop := fun _ => rfl
  matchVerify := by intro h; cases h
  noncanonBy := by intro h; cases h
  mismatchVerify := by intro h; cases h

/-- A CHKSUM with its last application still to come, for exponent 0 and a salt of dots: H is the seed hash. -/
def lastApplication : State :=
  { (atChain .chksum (md5 dots) 1#64 []).putBytes saltBase dots with inputs := [] }

/-- The same after that application. -/
def chainDone : State :=
  { (atChain .chksum (md5 (leBytes 16 (md5 dots))) 0#64 [.sequencer]).putBytes saltBase dots with textlen := 0#8 }

theorem hashInv_lastApplication : lastApplication.HashInv where
  chained := by intro _; decide +kernel
  bounded := by intro _; decide
  parsed := by intro _ h; exact absurd h (by decide)

theorem hashInv_chainDone : chainDone.HashInv where
  chained := by intro _; decide +kernel
  bounded := by intro _; decide
  parsed := by intro _ h; exact absurd h (by decide)

theorem witness_EveryCommandEnds :
    (atSetup .chksum []).Inv ∧ (atSetup .chksum []).inReset = false ∧ (atSetup .chksum []).inputs = []
      ∧ (atSetup .chksum []).busy = true := ⟨inv_atSetup [], rfl, rfl, rfl⟩

theorem witness_StepKeepsInv : (atSetup .chksum []).Inv ∧ ∃ t, step (atSetup .chksum []) = .next t :=
  ⟨inv_atSetup [], _, rfl⟩

theorem witness_StepKeepsHashInv : lastApplication.HashInv ∧ ∃ t, step lastApplication = .next t :=
  ⟨hashInv_lastApplication, _, rfl⟩

theorem witness_ResetSatisfiesInvariants : Params.spec.legal := by decide

theorem witness_ChainResultUnderInterleaving :
    chainDone.HashInv ∧ chainDone.inReset = false ∧ chainDone.phase = .chain ∧ chainDone.iter = 0#64
      ∧ chainDone.inputs = .sequencer :: [] ∧ chainDone.opl = encode .chksum := ⟨hashInv_chainDone, rfl, rfl, rfl, rfl, rfl⟩

theorem witness_HostTransactionsKeepInputs :
    (atChain .chksum 0#128 1#64 [busWrite 0x008 0x1]).busy = true
      ∧ (atChain .chksum 0#128 1#64 [busWrite 0x008 0x1]).inputs = .bus (Txn.mk 0x008 .word (.write 0x1)) :: [] := by decide

theorem witness_NoPartialResults :
    ∃ t, exec .sym2val (atSetup .sym2val []) = .next t ∧ t.phase = .idle ∧ t.errcode ≠ .none :=
  ⟨complete .invalidCharacter (atSetup .sym2val []), rfl, rfl, by decide⟩

theorem witness_ProgressWithoutHostProgram : (atSetup .chksum []).Inv ∧ (atSetup .chksum []).host.prog = [] :=
  ⟨inv_atSetup [], rfl⟩

/-- The host at the first line of a program. -/
def hostWith (vars : List (Nat × Word)) (prog : List HostLine) : State :=
  { State.reset with inputs := [.host], host := { prog := prog, place := 0, vars := vars } }

theorem witness_HostNotation :
    (∀ line ∈ [HostLine.wr 0x014 (.lit 5), .wr 0x014 (.name 1), .wr 0x008 .keepIrqEn, .rd 0x014 1, .poll 0x010 3 (.lit 2),
          .poll 0x010 3 (.name 1), .label 1, .bne 1 3 (.lit 2) 1, .bne 1 3 (.name 2) 1],
        (hostWith [(1, 5#32)] [line]).inputs = .host :: []
          ∧ (hostWith [(1, 5#32)] [line]).host.prog[(hostWith [(1, 5#32)] [line]).host.place]? = some line)
      ∧ lookupVar [(1, 5#32)] 1 = some 5#32
      ∧ (HostValue.lit 2).standsFor (hostWith [] []) 2
      ∧ (HostValue.name 1).standsFor (hostWith [(1, 5#32)] []) 5
      ∧ HostValue.keepIrqEn.standsFor (hostWith [] []) 1
      ∧ HostValue.keepIrqEn.standsFor { hostWith [] [] with irqEn := true } 3
      ∧ (∃ t, step { hostWith [] [] with inputs := busWrite 0x014 5 :: [] } = .next t)
      ∧ (∃ t, step { hostWith [] [] with inputs := busRead 0x010 :: [] } = .next t ∧ t.port.value &&& 3#32 ≠ 2#32)
      ∧ (∃ t, step { hostWith [] [] with inputs := busRead 0x010 :: [] } = .next t ∧ t.port.value &&& 3#32 = 0#32)
      ∧ (5#32 &&& 3#32 = 1#32)
      ∧ (5#32 &&& 3#32 ≠ 2#32 ∧ ([HostLine.bne 1 3 (.lit 2) 7, .label 7] : List HostLine)[1]? = some (.label 7)
        ∧ ∀ j < 1, ([HostLine.bne 1 3 (.lit 2) 7, .label 7] : List HostLine)[j]? ≠ some (.label 7)) :=
  ⟨by decide, by decide, .inl rfl, .inr (.inl ⟨1, rfl, rfl⟩), .inr (.inr ⟨rfl, rfl⟩), .inr (.inr ⟨rfl, rfl⟩), ⟨_, rfl⟩,
    ⟨_, rfl, by decide⟩, ⟨_, rfl, by decide⟩, by decide, by decide⟩

/-- The retry of 70_reset_and_hazards.md R169, two ITER_HI words compared: taken when they differ, else not. -/
theorem test_host_bne_two_names :
    (nextOf (step (hostWith [(1, 7#32), (2, 6#32)] [.bne 1 0xFFFFFFFF (.name 2) 9, .rd 0x028 3, .label 9]))).map
        (·.host.place) = some 2
      ∧ (nextOf (step (hostWith [(1, 7#32), (2, 7#32)] [.bne 1 0xFFFFFFFF (.name 2) 9, .rd 0x028 3, .label 9]))).map
        (·.host.place) = some 1 := by decide

/-- ABORT while IRQ_EN = 1, as in 95_test_vectors.md P4 line 12: the command is aborted and irq is 1. -/
theorem test_host_abort_keeps_irqEn :
    (nextOf (step { hostWith [] hostAbort with
        irqEn := true, phase := .setup, opl := 7#32, lastop := 7#4 })).map
      (fun t => (t.statusWord, t.ctrlWord, t.irq)) = some (0x00007A06#32, 0x00000002#32, true) := by decide

/-- 95_test_vectors.md V-L2-BUS-9: LOAD PW with `development`. -/
theorem test_host_load :
    hostLoad .pw [0x64, 0x65, 0x76, 0x65, 0x6C, 0x6F, 0x70, 0x6D, 0x65, 0x6E, 0x74]
      = [.wr 0x100 (.lit 0x65766564), .wr 0x104 (.lit 0x6D706F6C), .wr 0x108 (.lit 0x00746E65)] := by decide

end Sys2Proof.Tests
end

section
/-! PROOF of O52: every step keeps the invariant of the control state and the buffers. One rule for each update a turn can
make says that the update keeps State.Inv; the commands, the bus and the host are then put together from these rules. -/

namespace Sys2Proof.Machine

/-! Decoding a command word gives its encoding back. -/

/-- The opcode map sends only the opcode field of a command's word to that command (30_encoding.md R63). -/
theorem opcode_of_opcodeMap {op : BitVec 4} {i : Instr} (h : opcodeMap op = .ok i) :
    op = (encode i).extractLsb' 0 4 := by
  unfold opcodeMap at h
  split at h <;> cases h <;> exact BitVec.eq_of_toNat_eq ‹_›

/-- A command word is put together from its reserved bits and its opcode field (30_encoding.md R61). -/
theorem word_ext {v w : Word} (hr : v.extractLsb' 4 28 = w.extractLsb' 4 28)
    (ho : v.extractLsb' 0 4 = w.extractLsb' 0 4) : v = w := by
  have hr' := congrArg BitVec.toNat hr
  have ho' := congrArg BitVec.toNat ho
  simp only [BitVec.extractLsb'_toNat, Nat.shiftRight_eq_div_pow] at hr' ho'
  exact BitVec.eq_of_toNat_eq (by omega)

theorem encode_reservedBits (i : Instr) : (encode i).extractLsb' 4 28 = 0#28 := by
  cases i <;> rfl

/-- Only its own word decodes to a command (30_encoding.md R61, R63). -/
theorem word_of_decode {w : Word} {i : Instr} (h : decode w = .ok i) : w = encode i := by
  unfold decode at h
  split at h
  · cases h
  · rename_i hr
    exact word_ext ((not_not.mp hr).trans (encode_reservedBits i).symm) (opcode_of_opcodeMap h)

/-! What the decoders and the map can answer. -/

/-- DEC22 never answers code 6 (41_codec.md R90). -/
theorem dec22_error_ne_mismatch {t : List Byte} {c : Code} (h : dec22 t = .error c) : c ≠ .verificationFailure := by
  obtain ⟨-, h'⟩ | ⟨_, -, -, h'⟩ | ⟨_, -, -, -, h'⟩ := dec22_cases t
  all_goals cases h.symm.trans h' <;> decide

/-- PARSEREC never answers code 6 (44_record.md R128). -/
theorem parseRec_error_ne_mismatch {t : List Byte} {c : Code} (h : parseRec t = .error c) :
    c ≠ .verificationFailure := by
  obtain ⟨-, h'⟩ | ⟨-, -, h'⟩ | ⟨-, -, -, h'⟩ | ⟨-, -, e, c', -, hd, h'⟩ | ⟨-, -, e, d, nc, -, -, h'⟩ :=
    parseRec_cases t
  case inr.inr.inr.inl =>
    cases h.symm.trans h'
    exact dec22_error_ne_mismatch hd
  all_goals cases h.symm.trans h' <;> decide

/-- The map selects buffer cells at a buffer offset only (20_memory.md R45). -/
theorem targetOf_cells {p : Params} {off a : Nat} (h : targetOf p off = some (.cells a)) :
    a = off ∧ inBuffer p a = true := by
  unfold targetOf at h
  split at h
  case h_13 =>
    split at h
    · rename_i hin
      cases h
      exact ⟨rfl, hin⟩
    · cases h
  all_goals cases h

/-- A transaction reaches buffer cells at an aligned buffer offset only (20_memory.md R45, R47). -/
theorem txnTarget_cells {t : Txn} {s : State} {a : Nat} (h : txnTarget t s = some (.cells a)) :
    a % 4 = 0 ∧ inBuffer s.params a = true := by
  unfold txnTarget at h
  split at h
  · cases h
  · split at h
    · cases h
    · cases h
    · split at h
      · rename_i h4
        obtain ⟨rfl, hin⟩ := targetOf_cells h
        exact ⟨h4, hin⟩
      · cases h

/-- Buffers begin and end at word boundaries (00_scope.md R7, 10_state.md R35). -/
theorem inBuffer_word {p : Params} (hp : p.legal) {a x : Nat} (h4 : a % 4 = 0) (ha : inBuffer p a = true)
    (hlo : a ≤ x) (hhi : x < a + 4) : inBuffer p x = true := by
  obtain ⟨-, ⟨-, -, hpw⟩, -, -, htext⟩ := hp
  rw [inBuffer_iff] at ha ⊢
  omega

theorem iterLoad_le (e : Sextet) : (iterLoad e).toNat ≤ 2 ^ 63 := by
  have he : 2 ^ e.toNat ≤ 2 ^ 63 := Nat.pow_le_pow_right (by omega) (by omega)
  rw [iterLoad, BitVec.toNat_shiftLeft, BitVec.toNat_ofNat, Nat.shiftLeft_eq]
  omega

/-! BUSY reads the phase alone, which no write to a buffer changes (10_state.md R20). -/

theorem busy_of_phase {s : State} {p : Phase} (hp : s.phase = p) (hne : p ≠ .idle) : s.busy = true :=
  (busy_iff s).mpr (hp ▸ hne)

@[simp] theorem putSalt_busy (v : BitVec 64) (s : State) : (s.putSalt v).busy = s.busy := by simp [State.busy]
@[simp] theorem putDigest_busy (v : BitVec 128) (s : State) : (s.putDigest v).busy = s.busy := by simp [State.busy]
@[simp] theorem putText_busy (t : List Byte) (s : State) : (s.putText t).busy = s.busy := by simp [State.busy]

/-! The updates of the state. An update that touches no field of the invariant keeps it field by field: `{ h with }`. -/

namespace State.Inv

variable {s : State}

/-- In phase IDLE the invariant speaks of the parameters, the buffers and the status alone. -/
theorem of_idle (hidle : s.phase = .idle) (hparams : s.params.legal) (hwf : s.mem.wf)
    (hin : ∀ c ∈ s.mem, inBuffer s.params c.1 = true)
    (hmatch : s.verMatch = true → s.lastop = 0xB#4 ∧ s.errcode = .none)
    (hnoncanon : s.noncanon = true →
      (s.errcode = .none ∧ (s.lastop = 0x6#4 ∨ s.lastop = 0x8#4 ∨ s.lastop = 0xB#4))
        ∨ (s.errcode = .verificationFailure ∧ s.lastop = 0xB#4))
    (hmismatch : s.errcode = .verificationFailure → s.lastop = 0xB#4) : s.Inv where
  paramsLegal := hparams
  memWf := hwf
  memInBuffers := hin
  chainHash := by simp [hidle]
  chainPassword := by simp [hidle]
  chainIter := by simp [hidle]
  busyClear := by simp [busy_iff, hidle]
  busyLastop := by simp [busy_iff, hidle]
  matchVerify := hmatch
  noncanonBy := hnoncanon
  mismatchVerify := hmismatch

/-- A reset leaves the invariant, for legal parameters (10_state.md R42). -/
theorem resetWith {p : Params} (hp : p.legal) (n : Nat) : (State.resetWith p n).Inv :=
  of_idle rfl hp (reset_mem_wf p n) (by intro c hc; cases hc) nofun nofun nofun

theorem releaseReset (h : s.Inv) : (releaseReset s).Inv :=
  { resetWith h.paramsLegal (s.epoch + 1) with }

/-- The opcode that LASTOP holds while a command runs (10_state.md R28). -/
theorem lastop_eq (h : s.Inv) (hb : s.busy = true) {i : Instr} (hd : decode s.opl = .ok i) :
    s.lastop = (encode i).extractLsb' 0 4 := by
  rw [h.busyLastop hb, word_of_decode hd]

/-! Writes to the buffers. -/

theorem putBytes (h : s.Inv) {a : Nat} {bs : List Byte}
    (hin : ∀ x, a ≤ x → x < a + bs.length → inBuffer s.params x = true) : (s.putBytes a bs).Inv :=
  { h with
    memWf := Memory.storeBytes_wf h.memWf a bs
    memInBuffers := fun c hc => by
      obtain ⟨hlo, hhi⟩ | hc := Memory.mem_storeBytes hc
      · exact hin c.1 hlo hhi
      · exact h.memInBuffers c hc }

theorem putSalt (h : s.Inv) (v : BitVec 64) : (s.putSalt v).Inv :=
  h.putBytes fun x hlo hhi => by
    rw [leBytes_length] at hhi
    exact (inBuffer_iff _ x).mpr (.inl ⟨hlo, hhi⟩)

theorem putDigest (h : s.Inv) (v : BitVec 128) : (s.putDigest v).Inv :=
  h.putBytes fun x hlo hhi => by
    rw [leBytes_length] at hhi
    exact (inBuffer_iff _ x).mpr (.inr (.inl ⟨hlo, hhi⟩))

/-- TEXT_BUF_LEN is at least 36, so a record or an encoded digest fits (00_scope.md R7). -/
theorem putText (h : s.Inv) {t : List Byte} (ht : t.length ≤ 36) : (s.putText t).Inv := by
  obtain ⟨-, -, hmin, -⟩ := h.paramsLegal
  have hbytes : (s.putBytes textBase t).Inv := h.putBytes fun x hlo hhi =>
    (inBuffer_iff _ x).mpr (.inr (.inr (.inl ⟨hlo, hhi.trans_le (Nat.add_le_add_left (ht.trans hmin) _)⟩)))
  exact { hbytes with }

/-! The command protocol. -/

/-- Acceptance clears the status and latches the word that LASTOP names (40_command_protocol.md R73). -/
theorem accept (h : s.Inv) (w : Word) : (accept w s).Inv :=
  { h with
    chainHash := nofun
    chainPassword := nofun
    chainIter := nofun
    busyClear := fun _ => ⟨rfl, rfl, rfl, rfl⟩
    busyLastop := fun _ => rfl
    matchVerify := nofun
    noncanonBy := nofun
    mismatchVerify := nofun }

/-- Completion with any code but 6, when nothing but buffers, registers or hidden state was committed before it
(40_command_protocol.md R77): MATCH and NONCANON are still 0 as acceptance left them. -/
theorem complete (h : s.Inv) (hb : s.busy = true) {c : Code} (hc : c ≠ .verificationFailure) :
    (complete c s).Inv := by
  obtain ⟨-, -, hmatch, hnoncanon⟩ := h.busyClear hb
  exact of_idle rfl h.paramsLegal h.memWf h.memInBuffers (by simp [hmatch]) (by simp [hnoncanon])
    (fun h6 => absurd h6 hc)

/-- Success of a command that commits RESULT alone (10_state.md R30). -/
theorem complete_result (h : s.Inv) (hb : s.busy = true) (w : Word) :
    (Machine.complete .none { s with result := w }).Inv :=
  complete (s := { s with result := w }) { h with } hb nofun

/-- Success of DECDIG or PARSE, which commit NONCANON (10_state.md R24), and PARSE also EXP (44_record.md R133). -/
theorem complete_noncanon (h : s.Inv) (hb : s.busy = true) (hop : s.lastop = 0x6#4 ∨ s.lastop = 0x8#4) (e : Sextet)
    (nc : Bool) : (Machine.complete .none { s with exp := e, noncanon := nc }).Inv := by
  obtain ⟨-, -, hmatch, -⟩ := h.busyClear hb
  exact of_idle rfl h.paramsLegal h.memWf h.memInBuffers (by simp [hmatch])
    (fun _ => .inl ⟨rfl, hop.imp_right .inl⟩) nofun

theorem abort (h : s.Inv) (hb : s.busy = true) : (abort s).Inv := h.complete hb (c := .aborted) nofun

/-! The iteration. -/

theorem hashStart (h : s.Inv) (hb : s.busy = true) (hash : holdsHashCommand s)
    (hpw : s.passwordTooLong = false) (e : Sextet) (S : BitVec 64) : (hashStart e S s).Inv :=
  { h with
    chainHash := fun _ => hash
    chainPassword := fun _ => by simpa [State.passwordTooLong] using hpw
    chainIter := fun _ => iterLoad_le e
    busyClear := fun _ => h.busyClear hb
    busyLastop := fun _ => h.busyLastop hb }

/-- A chained application counts ITER down from a value that is not 0 (42_checksum.md R107). -/
theorem chainStep (h : s.Inv) {finish : State → State} (hfinish : (finish s).Inv) :
    (chainStep finish s).Inv := by
  obtain ⟨hne, heq⟩ | ⟨-, heq⟩ := chainStep_cases finish s
  · have hle : (s.iter - 1#64).toNat ≤ s.iter.toNat := by bv_omega
    rw [heq]
    exact { h with chainIter := fun hchain => hle.trans (h.chainIter hchain) }
  · rwa [heq]

theorem finishChksum (h : s.Inv) (hb : s.busy = true) : (finishChksum s).Inv :=
  (h.putDigest s.h).complete (by simpa) nofun

theorem finishGenerate (h : s.Inv) (hb : s.busy = true) : (finishGenerate s).Inv :=
  have hrecord := (h.putDigest s.h).putText (t := formatRec s.exp s.salt s.h) (by simp)
  hrecord.complete (by simpa) nofun

/-- VERIFY's end with code 0 or 6 is the one place that writes MATCH (10_state.md R23, 44_record.md R136). -/
theorem finishVerify (h : s.Inv) (hop : s.lastop = 0xB#4) : (finishVerify s).Inv := by
  unfold Machine.finishVerify
  split
  · exact of_idle rfl h.paramsLegal h.memWf h.memInBuffers (fun _ => ⟨hop, rfl⟩)
      (fun _ => .inl ⟨rfl, .inr (.inr hop)⟩) nofun
  · exact of_idle rfl h.paramsLegal h.memWf h.memInBuffers nofun (fun _ => .inr ⟨rfl, hop⟩) (fun _ => hop)

theorem setupChksum (h : s.Inv) (hb : s.busy = true) (hash : holdsHashCommand s) : (setupChksum s).Inv := by
  unfold Machine.setupChksum
  split
  · exact h.complete hb nofun
  · rename_i hpw
    exact h.hashStart hb hash (Bool.eq_false_iff.mpr hpw) _ _

/-- GENERATE has the SETUP rule of CHKSUM (44_record.md R135). -/
theorem setupGenerate (h : s.Inv) (hb : s.busy = true) (hash : holdsHashCommand s) : (setupGenerate s).Inv :=
  h.setupChksum hb hash

theorem setupVerify (h : s.Inv) (hb : s.busy = true) (hash : holdsHashCommand s) : (setupVerify s).Inv := by
  unfold Machine.setupVerify
  split
  · exact h.complete hb nofun
  · rename_i hlen
    obtain ⟨-, hpw⟩ := Bool.or_eq_false_iff.mp (Bool.eq_false_iff.mpr hlen)
    split
    · rename_i hc
      exact h.complete hb (parseRec_error_ne_mismatch hc)
    · rename_i r hr
      have hlatched : State.Inv { s with pe := r.exp, ps := r.salt, pd := r.digest, pnc := r.nonCanon } := { h with }
      exact hlatched.hashStart hb hash hpw _ _

/-! Writes to the registers. -/

theorem writeOperand (h : s.Inv) {write : State → State} (hwrite : s.busy = false → (write s).Inv) :
    (writeOperand write s).Inv := by
  obtain ⟨-, heq⟩ | ⟨hb, heq⟩ := writeOperand_cases write s
  · rw [heq]
    exact { h with }
  · rw [heq]
    exact hwrite hb

theorem writeCmd (h : s.Inv) (v : Word) : (writeCmd v s).Inv := by
  obtain ⟨-, heq⟩ | ⟨-, heq⟩ := writeCmd_cases v s
  · rw [heq]
    exact { h with }
  · rw [heq]
    exact h.accept v

theorem writeCtrl (h : s.Inv) (v : Word) : (writeCtrl v s).Inv := by
  have hirq : State.Inv { s with irqEn := v.getLsbD 1 } := { h with }
  obtain ⟨-, hb, heq⟩ | ⟨-, heq⟩ := writeCtrl_cases v s
  · rw [heq]
    exact hirq.abort hb
  · rwa [heq]

/-- A STATUS write can only clear DONE, so it stays 0 while busy (10_state.md R21). -/
theorem writeStatus (h : s.Inv) (v : Word) : (writeStatus v s).Inv := by
  rw [writeStatus_eq]
  exact { h with
    busyClear := fun hb => by
      obtain ⟨hdone, hrest⟩ := h.busyClear hb
      exact ⟨by simp [hdone], hrest⟩ }

/-- PWLEN is written in phase IDLE only, so the password of a running chain keeps its length (20_memory.md R51). -/
theorem writePwlen (h : s.Inv) (n : BitVec 16) : (Machine.writeOperand (fun s => { s with pwlen := n }) s).Inv :=
  h.writeOperand fun hb =>
    { h with chainPassword := fun hchain => absurd ((not_busy_iff s).mp hb) (by rw [hchain]; nofun) }

theorem writeTarget (h : s.Inv) (v : Word) {g : Target}
    (hg : ∀ a, g = .cells a → a % 4 = 0 ∧ inBuffer s.params a = true) : (writeTarget v s g).Inv := by
  unfold Machine.writeTarget
  cases g with
  | id | params | result | iterLo | iterHi => exact h
  | ctrl => exact h.writeCtrl v
  | cmd => exact h.writeCmd v
  | status => exact h.writeStatus v
  | arg | exp | textlen => exact h.writeOperand fun _ => { h with }
  | pwlen => exact h.writePwlen _
  | cells a =>
    obtain ⟨h4, hin⟩ := hg a rfl
    refine h.writeOperand fun _ => h.putBytes fun x hlo hhi => ?_
    rw [leBytes_length] at hhi
    exact inBuffer_word h.paramsLegal h4 hin hlo hhi

theorem transact (h : s.Inv) (t : Txn) : (transact t s).Inv := by
  obtain ⟨-, heq⟩ | ⟨g, -, -, heq⟩ | ⟨g, v, hg, -, heq⟩ := transact_cases t s
  · rw [heq]
    exact { h with }
  · rw [heq]
    exact { h with }
  · rw [heq]
    have hwrite := h.writeTarget v (g := g) fun a ha => txnTarget_cells (ha ▸ hg)
    exact { hwrite with }

end State.Inv

/-! Outcomes: a fault answers no state, so it has nothing to keep. -/

/-- Every next state an outcome answers has the invariant. -/
def AnswersInv (o : Host.Outcome State Fault Refusal) : Prop := ∀ t, o = .next t → t.Inv

theorem answersInv_next {t : State} (h : t.Inv) : AnswersInv (.next t) := fun _ ht => by
  cases ht
  exact h

theorem answersInv_fault (r : Fault) : AnswersInv (.fault r) := fun _ h => by cases h

/-! The commands. A micro-step of a command is taken while busy, with the command's word in OPL. -/

section

variable {s : State}

theorem execSym2val_answersInv (h : s.Inv) (hb : s.busy = true) : AnswersInv (execSym2val s) := by
  refine answersInv_next ?_
  split
  · exact h.complete hb nofun
  · split
    · exact h.complete hb nofun
    · exact h.complete_result hb _

theorem execVal2sym_answersInv (h : s.Inv) (hb : s.busy = true) : AnswersInv (execVal2sym s) := by
  refine answersInv_next ?_
  split
  · exact h.complete hb nofun
  · exact h.complete_result hb _

theorem execEncgrp_answersInv (h : s.Inv) (hb : s.busy = true) : AnswersInv (execEncgrp s) := by
  refine answersInv_next ?_
  split
  · exact h.complete hb nofun
  · exact h.complete_result hb _

theorem execDecgrp_answersInv (h : s.Inv) (hb : s.busy = true) : AnswersInv (execDecgrp s) := by
  refine answersInv_next ?_
  split
  · exact h.complete hb nofun
  · exact h.complete_result hb _

theorem execEncdig_answersInv (h : s.Inv) (hb : s.busy = true) : AnswersInv (execEncdig s) := by
  have htext := h.putText (t := enc22 s.digest) (by simp)
  exact answersInv_next (htext.complete (by simpa) nofun)

theorem execDecdig_answersInv (h : s.Inv) (hb : s.busy = true) (hop : s.lastop = 0x6#4) :
    AnswersInv (execDecdig s) := by
  refine answersInv_next ?_
  split
  · exact h.complete hb nofun
  · split
    · rename_i hc
      exact h.complete hb (dec22_error_ne_mismatch hc)
    · exact (h.putDigest _).complete_noncanon (by simpa) (by simp [hop]) _ _

theorem execParse_answersInv (h : s.Inv) (hb : s.busy = true) (hop : s.lastop = 0x8#4) :
    AnswersInv (execParse s) := by
  refine answersInv_next ?_
  split
  · exact h.complete hb nofun
  · split
    · rename_i hc
      exact h.complete hb (parseRec_error_ne_mismatch hc)
    · rename_i r _
      have hfields := (h.putSalt r.salt).putDigest r.digest
      exact hfields.complete_noncanon (by simpa) (by simp [hop]) r.exp r.nonCanon

theorem execFormat_answersInv (h : s.Inv) (hb : s.busy = true) : AnswersInv (execFormat s) := by
  have htext := h.putText (t := formatRec s.exp s.salt s.digest) (by simp)
  exact answersInv_next (htext.complete (by simpa) nofun)

theorem execChksum_answersInv (h : s.Inv) (hb : s.busy = true) (hash : holdsHashCommand s) :
    AnswersInv (execChksum s) := by
  refine answersInv_next ?_
  split
  · exact h.chainStep (h.finishChksum hb)
  · exact h.setupChksum hb hash

theorem execGenerate_answersInv (h : s.Inv) (hb : s.busy = true) (hash : holdsHashCommand s) :
    AnswersInv (execGenerate s) := by
  refine answersInv_next ?_
  split
  · exact h.chainStep (h.finishGenerate hb)
  · exact h.setupGenerate hb hash

theorem execVerify_answersInv (h : s.Inv) (hb : s.busy = true) (hash : holdsHashCommand s)
    (hop : s.lastop = 0xB#4) : AnswersInv (execVerify s) := by
  refine answersInv_next ?_
  split
  · exact h.chainStep (h.finishVerify hop)
  · exact h.setupVerify hb hash

/-- The micro-step of the command OPL decodes to keeps the invariant (40_command_protocol.md R76, 42_checksum.md R107). -/
theorem exec_answersInv (h : s.Inv) (hb : s.busy = true) {i : Instr} (hd : decode s.opl = .ok i) :
    AnswersInv (exec i s) := by
  have hopl := word_of_decode hd
  have hop := h.lastop_eq hb hd
  cases i with
  | sym2val => exact execSym2val_answersInv h hb
  | val2sym => exact execVal2sym_answersInv h hb
  | encgrp => exact execEncgrp_answersInv h hb
  | decgrp => exact execDecgrp_answersInv h hb
  | encdig => exact execEncdig_answersInv h hb
  | decdig => exact execDecdig_answersInv h hb hop
  | chksum => exact execChksum_answersInv h hb (.inl hopl)
  | parse => exact execParse_answersInv h hb hop
  | format => exact execFormat_answersInv h hb
  | generate => exact execGenerate_answersInv h hb (.inr (.inl hopl))
  | verify => exact execVerify_answersInv h hb (.inr (.inr hopl)) hop

/-! The turns. -/

theorem sequencerTurn_answersInv (h : s.Inv) : AnswersInv (sequencerTurn s) := by
  obtain ⟨-, heq⟩ | ⟨-, hp, -, heq⟩ | ⟨-, hp, i, hd, heq⟩ | ⟨-, hp, i, -, hd, heq⟩ | ⟨-, -, heq⟩ :=
    sequencerTurn_cases s
  all_goals rw [heq]
  · exact answersInv_next h
  · exact answersInv_next (h.complete (busy_of_phase hp nofun) nofun)
  · exact exec_answersInv h (busy_of_phase hp nofun) hd
  · exact exec_answersInv h (busy_of_phase hp nofun) hd
  · exact answersInv_fault _

theorem hostTurn_answersInv (h : s.Inv) : AnswersInv (hostTurn s) := by
  obtain ⟨-, heq⟩ | ⟨line, -, heq⟩ := hostTurn_cases s
  · rw [heq]
    exact answersInv_next h
  · obtain ⟨a, hline⟩ | ⟨x, a, hline⟩ | ⟨n, hline⟩ | ⟨l, hline⟩ := hostLine_cases line s
    all_goals rw [heq, hline]
    · exact answersInv_next { h with }
    · have htransact := h.transact x
      exact answersInv_next { htransact with }
    · exact answersInv_fault _
    · exact answersInv_fault _

theorem takeTurn_answersInv (h : s.Inv) (t : Turn) : AnswersInv (takeTurn t s) := by
  cases t with
  | bus x => exact answersInv_next (h.transact x)
  | host => exact hostTurn_answersInv h
  | sequencer => exact sequencerTurn_answersInv h
  | assertReset => exact answersInv_next { h with }
  | releaseReset =>
    refine answersInv_next ?_
    split
    · exact h.releaseReset
    · exact h

theorem step_answersInv (h : s.Inv) : AnswersInv (step s) := by
  obtain ⟨t, rest, -, heq⟩ | ⟨-, -, -, heq⟩ | ⟨-, -, heq⟩ := step_cases s
  all_goals rw [heq]
  · have hrest : State.Inv { s with inputs := rest } := { h with }
    exact takeTurn_answersInv hrest t
  · exact sequencerTurn_answersInv h
  · exact hostTurn_answersInv h

end

/-- Settles O52: whichever agent the step's turn belongs to, the next state it answers has the invariant. -/
theorem stepKeepsInv : Obligations.StepKeepsInv := by
  unfold Obligations.StepKeepsInv
  intro s t h hstep
  exact step_answersInv h t hstep

end Sys2Proof.Machine
end

section
/-! PROOF of O8, O11, O12, O15, O18, O19, O54: the registers as a host sees them, the STATUS word, the interrupt line
and the values after a reset. What a register access reads or stores is said first; a step on a register is then the bus
step of Laws/Window.lean at the register's offset. -/

namespace Sys2Proof.Machine

/-! Fields of a bus word as numbers. -/

/-- Bits [k+n-1:k] of a word are its quotient by 2^k, cut to n bits. -/
theorem extractLsb'_eq_ofNat_div {m : Nat} (x : BitVec m) (k n : Nat) :
    x.extractLsb' k n = BitVec.ofNat n (x.toNat / 2 ^ k) := by
  rw [BitVec.extractLsb', Nat.shiftRight_eq_div_pow]

/-- The low n bits of a word are its remainder by 2^n. -/
theorem extractLsb'_zero_eq_ofNat_mod {m : Nat} (x : BitVec m) (n : Nat) :
    x.extractLsb' 0 n = BitVec.ofNat n (x.toNat % 2 ^ n) := by
  apply BitVec.eq_of_toNat_eq
  rw [extractLsb'_eq_ofNat_div, BitVec.toNat_ofNat, BitVec.toNat_ofNat, pow_zero, Nat.div_one, Nat.mod_mod]

/-! The STATUS and CTRL words. -/

/-- ERRCODE is 0 for no code but `none` (60_exceptions.md R145). -/
theorem Code.bits_eq_zero_iff (c : Code) : c.bits = 0#4 ↔ c = .none := by
  cases c <;> decide

/-- Codes 11 to 15 are reserved (60_exceptions.md R144). -/
theorem Code.bits_toNat_le (c : Code) : c.bits.toNat ≤ 10 := by
  cases c <;> decide

theorem err_iff (s : State) : s.err = true ↔ s.errcode ≠ .none := by
  rw [State.err, decide_eq_true_iff, ne_eq, Code.bits_eq_zero_iff]

/-- Every bit of the STATUS word: eight flags, ERRCODE, and LASTOP, which has no bit past its fourth
(10_state.md R19). -/
theorem statusWord_getLsbD (s : State) (i : Nat) :
    s.statusWord.getLsbD i =
      if i < 8 then
        [s.busy, s.done, s.err, s.verMatch, s.noncanon, s.cmdOvr, s.wrIgn, false].getD i false
      else if i < 12 then s.errcode.bits.getLsbD (i - 8)
      else s.lastop.getLsbD (i - 12) := by
  simp only [State.statusWord, BitVec.getLsbD_append]
  by_cases hflag : i < 8
  · interval_cases i <;> simp
  · obtain ⟨j, rfl⟩ : ∃ j, i = j + 8 := Nat.exists_eq_add_of_le' (not_lt.mp hflag)
    have hcode : j + 8 < 12 ↔ j < 4 := by omega
    have hlastop : (decide (j - 4 < 4) && s.lastop.getLsbD (j - 4)) = s.lastop.getLsbD (j - 4) := by
      simpa using BitVec.lt_of_getLsbD
    simp [hcode, hlastop]

theorem statusWord_code (s : State) : s.statusWord.extractLsb' 8 4 = s.errcode.bits := by
  refine BitVec.eq_of_getLsbD_eq fun i hi => ?_
  rw [BitVec.getLsbD_extractLsb', statusWord_getLsbD, if_neg (by omega), if_pos (by omega)]
  simp [hi]

theorem statusWord_lastop (s : State) : s.statusWord.extractLsb' 12 4 = s.lastop := by
  refine BitVec.eq_of_getLsbD_eq fun i hi => ?_
  rw [BitVec.getLsbD_extractLsb', statusWord_getLsbD, if_neg (by omega), if_neg (by omega)]
  simp [hi]

/-- LASTOP has four bits, so the upper half of the word is 0 (10_state.md R19). -/
theorem statusWord_reserved (s : State) : s.statusWord.extractLsb' 16 16 = 0#16 := by
  refine BitVec.eq_of_getLsbD_eq fun i hi => ?_
  rw [BitVec.getLsbD_extractLsb', statusWord_getLsbD, if_neg (by omega), if_neg (by omega),
    BitVec.getLsbD_of_ge _ _ (by omega)]
  simp

/-- In reset the line is 0, else it is DONE & IRQ_EN (10_state.md R40, 70_reset_and_hazards.md R160). -/
theorem irq_eq (s : State) : s.irq = if s.inReset then false else s.done && s.irqEn := by
  unfold State.irq
  cases s.inReset <;> simp

theorem ctrlWord_eq (s : State) : s.ctrlWord = if s.irqEn then 0x00000002#32 else 0x00000000#32 := by
  unfold State.ctrlWord
  cases s.irqEn <;> decide

/-! Register accesses. -/

/-- A 32-bit read of a register outside reset: the offset and what it selects are read off the map
(20_memory.md R45, R49). -/
theorem step_readRegister {s : State} {a off : Nat} {rest : List Turn} {g : Target} {v : Word}
    (hr : s.inReset = false) (hi : s.inputs = busRead a :: rest) (ha : windowOffset a = off) (h4 : off % 4 = 0)
    (hg : targetOf s.params off = some g) (hv : readTarget s g = v) :
    step s = .next { s with inputs := rest, port := .data v } := by
  subst ha hv
  exact step_busRead hi hr h4 hg

/-- While idle an operand write is carried out (20_memory.md R51). -/
theorem writeOperand_of_idle {s : State} (hp : s.phase = .idle) (write : State → State) :
    writeOperand write s = write s := by
  obtain ⟨hb, -⟩ | ⟨-, heq⟩ := writeOperand_cases write s
  · exact absurd hp ((busy_iff s).mp hb)
  · exact heq

/-- A 32-bit write to an operand register while idle and outside reset (20_memory.md R45, R51). -/
theorem step_writeOperand_of_idle {s : State} {a off : Nat} {w : Word} {rest : List Turn} {g : Target}
    {write : State → State} (hr : s.inReset = false) (hp : s.phase = .idle) (hi : s.inputs = busWrite a w :: rest)
    (ha : windowOffset a = off) (h4 : off % 4 = 0) (hg : targetOf s.params off = some g)
    (hwrite : ∀ t, writeTarget w t g = writeOperand write t) :
    step s = .next { write { s with inputs := rest } with port := .ack } := by
  subst ha
  rw [step_busWrite hi hr h4 hg, hwrite, writeOperand_of_idle]
  exact hp

/-! Reset. -/

/-- The rising edge of `rst_n` (70_reset_and_hazards.md R160). -/
theorem step_releaseReset {s : State} {rest : List Turn} (hr : s.inReset = true)
    (hi : s.inputs = .releaseReset :: rest) : step s = .next (releaseReset { s with inputs := rest }) := by
  unfold step nextTurn
  rw [hi]
  exact congrArg Host.Outcome.next (if_pos hr)

/-- STATUS is 0 after a reset (10_state.md R42). -/
theorem releaseReset_statusWord (s : State) : (releaseReset s).statusWord = 0#32 := by
  simp [State.statusWord, State.err, State.busy, releaseReset, State.resetWith, Code.bits]

theorem releaseReset_ctrlWord (s : State) : (releaseReset s).ctrlWord = 0#32 := by
  rw [ctrlWord_eq]
  rfl

/-- After a reset no buffer byte is written, so each reads as the reset parameter's (10_state.md R42; log 3). -/
theorem releaseReset_byteAt (s : State) (a : Nat) : (releaseReset s).byteAt a = Config.resetByte (s.epoch + 1) a := rfl

/-- The invariant of the hash pipeline speaks of phase CHAIN alone. -/
theorem State.HashInv.of_idle {s : State} (hp : s.phase = .idle) : s.HashInv where
  chained hchain := by cases hp.symm.trans hchain
  bounded hchain := by cases hp.symm.trans hchain
  parsed hchain := by cases hp.symm.trans hchain

/-! The obligations. -/

/-- Settles O8: each register's write is an operand write, carried out while idle. -/
theorem operandRegisterWritesWhileIdle : Obligations.OperandRegisterWritesWhileIdle := by
  unfold Obligations.OperandRegisterWritesWhileIdle
  intro s a w rest hr hp hi
  refine ⟨fun ha => ?arg, fun ha => ?exp, fun ha => ?pwlen, fun ha => ?textlen⟩
  case arg => exact step_writeOperand_of_idle hr hp hi ha rfl rfl fun _ => rfl
  case exp | pwlen | textlen =>
    rw [step_writeOperand_of_idle hr hp hi ha rfl rfl fun _ => rfl, extractLsb'_zero_eq_ofNat_mod]
    rfl

/-- Settles O11: the bus step at each offset, with the word its register reads as. -/
theorem registerReads : Obligations.RegisterReads := by
  unfold Obligations.RegisterReads
  intro s a rest hr hi
  refine ⟨fun ha => ?id, fun ha => ?params, fun ha => ?ctrl, fun ha => ?cmd, fun ha => ?status, fun ha => ?arg,
    fun ha => ?result, fun ha => ?exp, fun ha => ?pwlen, fun ha => ?textlen, fun ha => ?iterLo, fun ha => ?iterHi⟩
  case id | params | cmd | status | arg | result => exact step_readRegister hr hi ha rfl rfl rfl
  case ctrl => exact step_readRegister hr hi ha rfl rfl (ctrlWord_eq s)
  case exp | pwlen | textlen => exact step_readRegister hr hi ha rfl rfl (BitVec.setWidth_eq_append (by omega))
  case iterLo =>
    have hlow := extractLsb'_eq_ofNat_div s.iter 0 32
    rw [pow_zero, Nat.div_one] at hlow
    exact step_readRegister hr hi ha rfl rfl hlow
  case iterHi => exact step_readRegister hr hi ha rfl rfl (extractLsb'_eq_ofNat_div s.iter 32 32)

/-- Settles O12: the flags are single bits of the STATUS word, the codes its fields of four. -/
theorem statusWordLayout : Obligations.StatusWordLayout := by
  unfold Obligations.StatusWordLayout
  refine ⟨rfl, fun s => ?_⟩
  have hcode := statusWord_code s
  simp only [statusWord_getLsbD]
  exact ⟨busy_iff s, rfl, err_iff s, rfl, rfl, rfl, rfl, rfl, hcode, hcode ▸ s.errcode.bits_toNat_le,
    statusWord_lastop s, statusWord_reserved s⟩

/-- Settles O15: STATUS is written in every phase, and a one clears its flag. -/
theorem statusWriteClears : Obligations.StatusWriteClears := by
  unfold Obligations.StatusWriteClears
  intro s a w rest hr ha hi
  have hg : targetOf s.params (windowOffset a) = some .status := by rw [ha]; rfl
  rw [step_busWrite hi hr (by rw [ha]) hg, writeTarget, writeStatus_eq]
  simp only [Bool.if_false_left, Bool.decide_eq_true, Bool.and_comm]

/-- Settles O18, by the two levels of the reset line. -/
theorem irqLine : Obligations.IrqLine := by
  unfold Obligations.IrqLine
  intro s
  rw [irq_eq]
  refine ⟨fun hr => ?_, fun hr => ?_⟩
  · rw [hr, if_neg Bool.false_ne_true, Bool.and_eq_true]
  · rw [hr, if_pos rfl]

/-- Settles O19: the released state is `releaseReset`'s, field by field. -/
theorem resetReleaseValues : Obligations.ResetReleaseValues := by
  unfold Obligations.ResetReleaseValues
  intro s rest hr hi
  exact ⟨_, step_releaseReset hr hi, rfl, rfl, rfl, releaseReset_ctrlWord _, releaseReset_statusWord _,
    rfl, rfl, rfl, rfl, rfl, rfl, rfl, rfl, rfl, rfl, releaseReset_byteAt _⟩

/-- Settles O54: a reset leaves phase IDLE and empty buffers, and the spec's parameters are legal. -/
theorem resetSatisfiesInvariants : Obligations.ResetSatisfiesInvariants := by
  unfold Obligations.ResetSatisfiesInvariants
  have hreset (p : Params) (n : Nat) (hp : p.legal) : (State.resetWith p n).Inv ∧ (State.resetWith p n).HashInv :=
    ⟨State.Inv.resetWith hp n, State.HashInv.of_idle rfl⟩
  exact ⟨hreset, hreset Params.spec 0 (by decide)⟩

end Sys2Proof.Machine
end

section
/-! PROOF of O7, O9, O10, O13, O14: what the transactions of a host do (20_memory.md R46 to R51). What a transaction
answers and what a write to each target does is said first; a step is then the bus step of Laws/Window.lean. -/

namespace Sys2Proof

/-- The first byte of a sequence is the lowest byte of its value (20_memory.md R46). -/
theorem leVec_cons (w : Nat) (b : Byte) (bs : List Byte) : leVec (w + 8) (b :: bs) = leVec w bs ++ b := by
  apply BitVec.eq_of_toNat_eq
  have hb := b.isLt
  have hdiv : (b.toNat + 256 * leNat bs) / 2 ^ 8 = leNat bs := by omega
  have hlow : (b.toNat + 256 * leNat bs) % 2 ^ (w + 8) = b.toNat + 256 * (leNat bs % 2 ^ w) := by
    rw [Nat.pow_add, Nat.mul_comm (2 ^ w), Nat.mod_mul, hdiv]
    omega
  rw [BitVec.toNat_append, ← Nat.shiftLeft_add_eq_or_of_lt hb, Nat.shiftLeft_eq, leVec, leVec, BitVec.toNat_ofNat,
    BitVec.toNat_ofNat, leNat, hlow]
  omega

/-- A bus word of four bytes, the first in bits [7:0] (20_memory.md R46). -/
theorem leVec_four (b0 b1 b2 b3 : Byte) : leVec 32 [b0, b1, b2, b3] = b3 ++ b2 ++ b1 ++ b0 := by
  have h3 : leVec 8 [b3] = b3 := by
    rw [leVec_cons 0, BitVec.zero_width_append]
    rfl
  rw [leVec_cons 24, leVec_cons 16, leVec_cons 8, h3]

end Sys2Proof

namespace Sys2Proof.Machine

/-! The answer to a transaction. -/

/-- The bus-error response is the answer to the transactions without a target, and to no other (20_memory.md R47). -/
theorem transact_port_busError_iff (x : Txn) (s : State) :
    (transact x s).port = .busError ↔ txnTarget x s = none := by
  obtain ⟨hg, heq⟩ | ⟨g, hg, -, heq⟩ | ⟨g, v, hg, -, heq⟩ := transact_cases x s <;> simp [hg, heq]

/-- A transaction without a target changes nothing but the answer (20_memory.md R47). -/
theorem transact_of_no_target {x : Txn} {s : State} (h : txnTarget x s = none) :
    transact x s = { s with port := .busError } := by
  simp [transact, h]

/-- The transactions without a target: those during reset, and the narrow, the misaligned and the unmapped ones
(20_memory.md R45, R47, 70_reset_and_hazards.md R160). -/
theorem txnTarget_eq_none_iff {x : Txn} {s : State} (hp : s.params.legal) :
    txnTarget x s = none ↔
      s.inReset = true ∨ x.width ≠ .word ∨ windowOffset x.addr % 4 ≠ 0 ∨ ¬ mappedOffset s.params (windowOffset x.addr) := by
  unfold txnTarget
  cases s.inReset with
  | true => simp
  | false =>
    cases x.width with
    | byte | half => simp
    | word =>
      by_cases h4 : windowOffset x.addr % 4 = 0
      · rw [← targetOf_isSome_iff hp h4]
        simp [h4]
      · simp [h4]

/-- A read leaves its answer and changes nothing else, and the answer depends neither on the one before it nor on the
turns to come (20_memory.md R49). -/
theorem transact_read {x : Txn} (hx : x.access = .read) (s : State) :
    ∃ p, ∀ (l : List Turn) (q : Response),
      transact x { s with inputs := l, port := q } = { s with inputs := l, port := p } := by
  cases hg : txnTarget x s with
  | none => exact ⟨.busError, fun l q => transact_of_no_target hg⟩
  | some g =>
    refine ⟨.data (readTarget s g), fun l q => ?_⟩
    have hread : readTarget { s with inputs := l, port := q } g = readTarget s g := by cases g <;> rfl
    have htarget : txnTarget x { s with inputs := l, port := q } = some g := hg
    simp only [transact, htarget, hx, hread]

/-! Writes to the operands and to read-only registers. -/

/-- While busy an operand write is dropped (20_memory.md R51). -/
theorem step_writeOperand_of_busy {s : State} {a : Nat} {w : Word} {rest : List Turn} {g : Target}
    {write : State → State} (hr : s.inReset = false) (hp : s.phase ≠ .idle) (hi : s.inputs = busWrite a w :: rest)
    (h4 : windowOffset a % 4 = 0) (hg : targetOf s.params (windowOffset a) = some g)
    (hwrite : ∀ t, writeTarget w t g = writeOperand write t) :
    step s = .next { s with inputs := rest, port := .ack, wrIgn := true } := by
  rw [step_busWrite hi hr h4 hg, hwrite]
  obtain ⟨-, heq⟩ | ⟨hb, -⟩ := writeOperand_cases write { s with inputs := rest }
  · rw [heq]
  · exact absurd ((not_busy_iff _).mp hb) hp

/-- A write that its target ignores is acknowledged (20_memory.md R50). -/
theorem step_writeIgnored {s : State} {a off : Nat} {w : Word} {rest : List Turn} {g : Target}
    (hr : s.inReset = false) (hi : s.inputs = busWrite a w :: rest) (ha : windowOffset a = off) (h4 : off % 4 = 0)
    (hg : targetOf s.params off = some g) (hwrite : ∀ t, writeTarget w t g = t) :
    step s = .next { s with inputs := rest, port := .ack } := by
  subst ha
  rw [step_busWrite hi hr h4 hg, hwrite]

/-- Two words that a target takes alike have one next state, and are acknowledged (20_memory.md R50). -/
theorem step_busWrite_congr {s : State} {a off : Nat} {v w : Word} {g : Target} (rest : List Turn)
    (hr : s.inReset = false) (ha : windowOffset a = off) (h4 : off % 4 = 0) (hg : targetOf s.params off = some g)
    (hwrite : ∀ t, writeTarget v t g = writeTarget w t g) :
    step { s with inputs := busWrite a v :: rest } = step { s with inputs := busWrite a w :: rest }
      ∧ ∃ t, step { s with inputs := busWrite a v :: rest } = .next t ∧ t.port = .ack := by
  subst ha
  have hstep (u : Word) : step { s with inputs := busWrite a u :: rest }
      = .next { writeTarget u { s with inputs := rest } g with port := .ack } := step_busWrite rfl hr h4 hg
  exact ⟨by rw [hstep v, hstep w, hwrite], _, hstep v, rfl⟩

/-! Reserved bits. -/

/-- Words with equal low bits agree on each of them. -/
theorem getLsbD_eq_of_extractLsb' {v w : Word} {n i : Nat} (h : v.extractLsb' 0 n = w.extractLsb' 0 n) (hi : i < n) :
    v.getLsbD i = w.getLsbD i := by
  have hbit := congrArg (BitVec.getLsbD · i) h
  simpa [BitVec.getLsbD_extractLsb', hi] using hbit

/-- Words equal under a mask agree on each bit of the mask. -/
theorem getLsbD_eq_of_and {v w m : Word} {i : Nat} (h : v &&& m = w &&& m) (hi : m.getLsbD i = true) :
    v.getLsbD i = w.getLsbD i := by
  have hbit := congrArg (BitVec.getLsbD · i) h
  simpa [hi] using hbit

/-- Of a CTRL write only bits 1:0 matter (10_state.md R17). -/
theorem writeCtrl_congr {v w : Word} (h : v.extractLsb' 0 2 = w.extractLsb' 0 2) (s : State) :
    writeCtrl v s = writeCtrl w s := by
  simp only [writeCtrl, getLsbD_eq_of_extractLsb' h zero_lt_two, getLsbD_eq_of_extractLsb' h one_lt_two]

/-- Of a STATUS write only bits 1, 5 and 6 matter (10_state.md R19). -/
theorem writeStatus_congr {v w : Word} (h : v &&& 0x00000062#32 = w &&& 0x00000062#32) (s : State) :
    writeStatus v s = writeStatus w s := by
  rw [writeStatus_eq, writeStatus_eq, getLsbD_eq_of_and h (i := 1) rfl, getLsbD_eq_of_and h (i := 5) rfl,
    getLsbD_eq_of_and h (i := 6) rfl]

/-! The obligations. -/

/-- Settles O9: the idle write is `putBytes` of the word's four bytes, and the read the four bytes put together. -/
theorem bufferWordsAreLittleEndian : Obligations.BufferWordsAreLittleEndian := by
  unfold Obligations.BufferWordsAreLittleEndian
  intro s a rest hr h4 hbuf
  have hg := targetOf_bufferOffset s.params hbuf
  refine ⟨fun w hp hi => ?write, fun hi => ?read⟩
  case write =>
    have hbyte (x : Nat) := byteAt_putBytes s (windowOffset a) x (leBytes 4 w)
    rw [leBytes_length] at hbyte
    refine ⟨_, step_writeOperand_of_idle hr hp hi rfl h4 hg fun _ => rfl, rfl, fun k hk => ?stored, fun x hx => ?kept⟩
    case stored =>
      refine (hbyte (windowOffset a + k)).trans ?_
      rw [if_pos (by omega), Nat.add_sub_cancel_left, List.getD_eq_getElem?_getD, leBytes_getElem?, if_pos hk]
      rfl
    case kept => exact (hbyte x).trans (if_neg (by omega))
  case read => rw [step_busRead hi hr h4 hg, ← leVec_four]; rfl

/-- Settles O10: the bus-error response is the answer to the transactions without a target. -/
theorem transactionBusErrors : Obligations.TransactionBusErrors := by
  unfold Obligations.TransactionBusErrors
  intro s x rest hp hi
  have hnone := txnTarget_eq_none_iff (x := x) (s := { s with inputs := rest }) hp
  rw [step_bus hi]
  refine ⟨fun hbad => ⟨?error, rfl⟩, fun hr hw h4 hmap => ⟨_, rfl, fun hport => ?answered⟩⟩
  case error => rw [transact_of_no_target (hnone.mpr hbad)]
  case answered =>
    obtain hr' | hw' | h4' | hmap' := hnone.mp ((transact_port_busError_iff x _).mp hport)
    · exact Bool.false_ne_true (hr.symm.trans hr')
    · exact hw' hw
    · exact h4' h4
    · exact hmap' hmap

/-- Settles O7: each of these targets takes an operand write, which is dropped while busy. -/
theorem operandWritesWhileBusyDropped : Obligations.OperandWritesWhileBusyDropped := by
  unfold Obligations.OperandWritesWhileBusyDropped
  intro s a w rest hr hp hoff hi
  obtain hreg | ⟨h4, hbuf⟩ := hoff
  · simp only [List.mem_cons, List.not_mem_nil, or_false] at hreg
    obtain ha | ha | ha | ha := hreg
    all_goals exact step_writeOperand_of_busy hr hp hi (by rw [ha]) (by rw [ha]; rfl) fun _ => rfl
  · exact step_writeOperand_of_busy hr hp hi h4 (targetOf_bufferOffset s.params hbuf) fun _ => rfl

/-- Settles O13: both steps take the same read, whose answer does not depend on what the first one changed. -/
theorem readsHaveNoSideEffect : Obligations.ReadsHaveNoSideEffect := by
  unfold Obligations.ReadsHaveNoSideEffect
  intro s x rest hx hi
  obtain ⟨p, hp⟩ := transact_read hx s
  have hfirst : step s = .next { s with inputs := .bus x :: rest, port := p } :=
    (step_bus hi).trans (congrArg _ (hp _ s.port))
  have hsecond : step { s with inputs := .bus x :: rest, port := p } = .next { s with inputs := rest, port := p } :=
    (step_bus rfl).trans (congrArg _ (hp rest p))
  exact ⟨p, hfirst, run_two hfirst hsecond⟩

/-- Settles O14: a read-only register ignores the word, and each other register reads only its own fields of it. -/
theorem readOnlyAndReservedWritesIgnored : Obligations.ReadOnlyAndReservedWritesIgnored := by
  unfold Obligations.ReadOnlyAndReservedWritesIgnored
  intro s a v w rest hr
  refine ⟨fun hoff hi => ?readOnly, fun hagree => ?reserved⟩
  case readOnly =>
    simp only [List.mem_cons, List.not_mem_nil, or_false] at hoff
    obtain ha | ha | ha | ha | ha := hoff
    all_goals exact step_writeIgnored hr hi ha rfl rfl fun _ => rfl
  case reserved =>
    obtain ⟨ha, h⟩ | ⟨ha, h⟩ | ⟨ha, h⟩ | ⟨ha, h⟩ | ⟨ha, h⟩ := hagree
    · exact step_busWrite_congr rest hr ha rfl rfl (writeCtrl_congr h)
    · exact step_busWrite_congr rest hr ha rfl rfl (writeStatus_congr h)
    all_goals exact step_busWrite_congr rest hr ha rfl rfl fun t => by simp only [writeTarget, h]

end Sys2Proof.Machine
end

section
/-! PROOF of O1, O2, O4: the decoder accepts the eleven command words and rejects every other one (30_encoding.md R61, R63,
R67), and a rejected word ends with ILLEGAL_COMMAND. That only a command's own word decodes to it is `word_of_decode`. -/

namespace Sys2Proof

/-! What the decoder answers. -/

theorem decode_encode (i : Instr) : decode (encode i) = .ok i := by
  cases i <;> rfl

theorem decode_eq_ok_iff (w : Word) (i : Instr) : decode w = .ok i ↔ w = encode i :=
  ⟨Machine.word_of_decode, fun hw => hw ▸ decode_encode i⟩

/-- The opcode fields that no command has (30_encoding.md R67). -/
theorem opcodeMap_rejects_iff (op : BitVec 4) :
    (∃ r, opcodeMap op = .error r) ↔ op.toNat ∈ [0x0, 0xC, 0xD, 0xE, 0xF] := by
  have hop := op.isLt
  unfold opcodeMap
  split
  case h_12 =>
    simp only [Except.error.injEq, exists_eq', true_iff, List.mem_cons, List.not_mem_nil, or_false, imp_false] at *
    omega
  all_goals simp [*]

/-- The words that are no command (30_encoding.md R67). -/
theorem decode_rejects_iff (w : Word) :
    (∃ r, decode w = .error r) ↔
      (w.extractLsb' 4 28 ≠ 0#28 ∨ (w.extractLsb' 0 4).toNat ∈ [0x0, 0xC, 0xD, 0xE, 0xF]) := by
  rw [← opcodeMap_rejects_iff]
  unfold decode
  by_cases hreserved : w.extractLsb' 4 28 = 0#28 <;> simp [hreserved]

/-! The decoder as the opcode table sees it: the four bytes of a 32-bit word. -/

/-- A word is read back from its bytes in the bus's lanes (20_memory.md R46). -/
theorem decodeBytes_leBytes (w : Word) : decodeBytes (leBytes 4 w) = decode w := by
  rw [decodeBytes, if_pos (leBytes_length 4 w), leVec_leBytes w (by decide)]

theorem tableWord_toNat (w : Word) : tableWord 32 w.toNat = w := by
  rw [tableWord, Nat.mod_eq_of_lt w.isLt, BitVec.ofNat_toNat, BitVec.setWidth_eq]

theorem decodeTableWord_encode (i : Instr) : decodeTableWord 32 (encode i).toNat = some i := by
  rw [decodeTableWord, tableWord_toNat, decodeBytes_leBytes, decode_encode]

theorem decodeTableWord_eq_none {w : Word} (h : ∃ r, decode w = .error r) : decodeTableWord 32 w.toNat = none := by
  obtain ⟨r, hr⟩ := h
  rw [decodeTableWord, tableWord_toNat, decodeBytes_leBytes, hr]

end Sys2Proof

namespace Sys2Proof.Machine

/-! A CMD write, and the SETUP micro-step of an illegal word. -/

/-- A CMD write while idle and outside reset accepts the word (40_command_protocol.md R73). -/
theorem step_cmdWrite_of_idle {s : State} {a : Nat} {w : Word} {rest : List Turn} (hr : s.inReset = false)
    (hp : s.phase = .idle) (ha : windowOffset a = 0x00C) (hi : s.inputs = busWrite a w :: rest) :
    step s = .next { accept w { s with inputs := rest } with port := .ack } := by
  have hg : targetOf s.params (windowOffset a) = some .cmd := by rw [ha]; rfl
  rw [step_busWrite hi hr (by rw [ha]) hg, writeTarget]
  obtain ⟨hb, -⟩ | ⟨-, heq⟩ := writeCmd_cases w { s with inputs := rest }
  · exact absurd hp ((busy_iff _).mp hb)
  · rw [heq]

/-- Left alone in phase SETUP, an illegal word completes with ILLEGAL_COMMAND (40_command_protocol.md R76; log 1). -/
theorem step_alone_illegalWord {s : State} (hi : s.inputs = []) (hr : s.inReset = false) (hp : s.phase = .setup)
    (hd : ∃ r, decode s.opl = .error r) : step s = .next (complete .illegalCommand s) := by
  obtain ⟨r, hd⟩ := hd
  rw [step_alone hi (busy_of_phase hp nofun) hr, sequencerTurn, hr, if_neg Bool.false_ne_true, hp]
  simp only [setupStep, hd]

/-! The obligations. -/

/-- Settles O1: the answers of the decoder, acceptance and rejection. -/
theorem decodeEncodeAgree : Obligations.DecodeEncodeAgree := by
  unfold Obligations.DecodeEncodeAgree
  exact ⟨rfl, fun w i => ⟨decode_eq_ok_iff w i, decode_rejects_iff w⟩⟩

/-- Settles O2: eleven encodings, and four words that `decode_rejects_iff` lists. -/
theorem tableWordsDecode : Obligations.TableWordsDecode := by
  unfold Obligations.TableWordsDecode
  have hillegal (w : Word)
      (hw : w.extractLsb' 4 28 ≠ 0#28 ∨ (w.extractLsb' 0 4).toNat ∈ [0x0, 0xC, 0xD, 0xE, 0xF]) :
      decodeTableWord 32 w.toNat = none := decodeTableWord_eq_none ((decode_rejects_iff w).mpr hw)
  exact ⟨decodeTableWord_encode .sym2val, decodeTableWord_encode .val2sym, decodeTableWord_encode .encgrp,
    decodeTableWord_encode .decgrp, decodeTableWord_encode .encdig, decodeTableWord_encode .decdig,
    decodeTableWord_encode .chksum, decodeTableWord_encode .parse, decodeTableWord_encode .format,
    decodeTableWord_encode .generate, decodeTableWord_encode .verify, hillegal 0x00000000#32 (by decide),
    hillegal 0x0000000C#32 (by decide), hillegal 0x00000011#32 (by decide), hillegal 0x80000001#32 (by decide)⟩

/-- Settles O4: the acceptance, then the SETUP micro-step. -/
theorem illegalWordCompletes : Obligations.IllegalWordCompletes := by
  unfold Obligations.IllegalWordCompletes
  intro s a w hr hp ha hw hi
  exact run_two (step_cmdWrite_of_idle hr hp ha hi)
    (step_alone_illegalWord rfl hr rfl ((decode_rejects_iff w).mpr hw))

end Sys2Proof.Machine
end

section
/-! PROOF of O25: ENC22 by groups is the bit table of 30_encoding.md R71. The 24-bit word of every group, the padded last
one too, is bits [24k+23:24k] of the digest, so symbol j of group k is the symbol of bits [6(4k+j)+5:6(4k+j)]. -/

namespace Sys2Proof.Machine

/-- A slice of a slice. -/
theorem extractLsb'_slice {m : Nat} (x : BitVec m) {k n i l : Nat} (h : i + l ≤ n) :
    (x.extractLsb' k n).extractLsb' i l = x.extractLsb' (k + i) l := by
  refine BitVec.eq_of_getLsbD_eq fun b hb => ?_
  have hin : i + b < n := by omega
  simp [hb, hin, Nat.add_assoc]

/-- Past the end of a value its bytes are 0. -/
theorem byteOf_eq_zero {m : Nat} (x : BitVec m) {k : Nat} (h : m ≤ 8 * k) : byteOf x k = 0x00#8 := by
  refine BitVec.eq_of_getLsbD_eq fun b _ => ?_
  rw [byteOf, BitVec.getLsbD_extractLsb', BitVec.getLsbD_of_ge _ _ (by omega)]
  simp

/-- Three consecutive bytes of a value put together are 24 consecutive bits of it (41_codec.md R87). -/
theorem byteOf_append_three {m : Nat} (x : BitVec m) (k : Nat) :
    byteOf x (k + 2) ++ byteOf x (k + 1) ++ byteOf x k = x.extractLsb' (8 * k) 24 := by
  simp only [byteOf, Nat.mul_add]
  rw [BitVec.extractLsb'_append_extractLsb'_eq_extractLsb' (by omega),
    BitVec.extractLsb'_append_extractLsb'_eq_extractLsb' rfl]

/-- ALPHA in its arithmetic form is the source's list (30_encoding.md R69, 41_codec.md R85). -/
theorem alpha_eq_symbolOf (v : Sextet) : alpha v = symbolOf v := by
  revert v
  decide

/-- The four symbols of group k of a value (41_codec.md R87). -/
theorem groupText_byteOf {m : Nat} (x : BitVec m) (k : Nat) :
    groupText (byteOf x (3 * k)) (byteOf x (3 * k + 1)) (byteOf x (3 * k + 2))
      = (List.range 4).map (fun j => symbolOf (x.extractLsb' (6 * (4 * k + j)) 6)) := by
  calc
    _ = (List.range 4).map (fun j => symbolOf ((x.extractLsb' (8 * (3 * k)) 24).extractLsb' (6 * j) 6)) := by
      simp only [groupText, encodeGroup, byteOf_append_three, alpha_eq_symbolOf]
      rfl
    _ = _ := by
      refine List.map_congr_left fun j hj => ?_
      have hoff : 8 * (3 * k) + 6 * j = 6 * (4 * k + j) := by omega
      rw [extractLsb'_slice x (by rw [List.mem_range] at hj; omega), hoff]

/-- The final partial group is group 5 of the digest, whose bytes 16 and 17 are 0 (41_codec.md R89). -/
theorem groupText_last (D : BitVec 128) :
    groupText (byteOf D 15) 0x00#8 0x00#8 = (List.range 4).map (fun j => symbolOf (D.extractLsb' (6 * (20 + j)) 6)) := by
  have hgroup := groupText_byteOf D 5
  rwa [byteOf_eq_zero D (k := 3 * 5 + 1) (by decide), byteOf_eq_zero D (k := 3 * 5 + 2) (by decide)] at hgroup

/-- Settles O25: five groups of four symbols and the first two of the sixth, put one after the other. -/
theorem digestSymbolLayout : Obligations.DigestSymbolLayout := by
  unfold Obligations.DigestSymbolLayout
  intro D
  have hsymbols : symbolsOfDigest D = (List.range 22).map (fun i => symbolOf (D.extractLsb' (6 * i) 6)) :=
    List.map_congr_left fun i hi => by
      rw [BitVec.extractLsb'_setWidth_of_le (by rw [List.mem_range] at hi; omega)]
  simp only [enc22, hsymbols, groupText_byteOf, groupText_last]
  rfl

end Sys2Proof.Machine
end

section
/-! PROOF of O60: the lines of the host program notation and the expansions of the pseudo-instructions (30_encoding.md R68;
log 9). A line's turn is the bus turn it makes and then a move of the host alone, which no transaction touches. -/

namespace Sys2Proof.Machine

/-! The values, names and labels of a host program. -/

/-- The word a `value` stands for is the one the host takes for it. -/
theorem withValue_of_standsFor {v : HostValue} {s : State} {w : Word} (h : v.standsFor s w)
    (k : Word → Host.Outcome State Fault Refusal) : withValue v s k = k w := by
  obtain rfl | ⟨n, rfl, hn⟩ | ⟨rfl, rfl⟩ := h
  · exact withValue_lit w s k
  · exact withValue_name hn k
  · rw [withValue_keepIrqEn, ctrlWord_eq]
    cases s.irqEn <;> rfl

theorem lookupVar_filter_of_ne (vars : List (Nat × Word)) {n m : Nat} (h : m ≠ n) :
    lookupVar (vars.filter (fun b => b.1 != n)) m = lookupVar vars m := by
  induction vars with
  | nil => rfl
  | cons b vars ih =>
    by_cases hb : b.1 = n
    · simp [lookupVar, hb, ih, h]
    · simp [lookupVar, hb, ih]

@[simp] theorem lookupVar_bindVar_self (vars : List (Nat × Word)) (n : Nat) (w : Word) :
    lookupVar (bindVar vars n w) n = some w := if_pos rfl

/-- Binding a name leaves what the others hold. -/
theorem lookupVar_bindVar_of_ne (vars : List (Nat × Word)) {n m : Nat} (w : Word) (h : m ≠ n) :
    lookupVar (bindVar vars n w) m = lookupVar vars m :=
  (if_neg h).trans (lookupVar_filter_of_ne vars h)

/-- A branch goes to the first line with its label. -/
theorem labelPlace_eq_some {prog : List HostLine} {l k : Nat} (hk : prog[k]? = some (.label l))
    (hfirst : ∀ j < k, prog[j]? ≠ some (.label l)) : labelPlace prog l = some k := by
  induction prog generalizing k with
  | nil => cases hk
  | cons line prog ih =>
    cases k with
    | zero =>
      cases hk
      exact if_pos rfl
    | succ k =>
      have hline : line ≠ .label l := fun heq => hfirst 0 (Nat.succ_pos k) (congrArg some heq)
      have hrest : labelPlace prog l = some k := ih hk fun j hj => hfirst (j + 1) (Nat.succ_lt_succ hj)
      rw [labelPlace, if_neg hline, hrest]
      rfl

/-! A transaction does not move the host ("host-side variables, not block state", 30_encoding.md R68). -/

theorem writeOperand_host {write : State → State} {s : State} (h : (write s).host = s.host) :
    (writeOperand write s).host = s.host := by
  obtain ⟨-, heq⟩ | ⟨-, heq⟩ := writeOperand_cases write s <;> rw [heq]
  exact h

theorem writeTarget_host (v : Word) (s : State) (g : Target) : (writeTarget v s g).host = s.host := by
  cases g with
  | id | params | result | iterLo | iterHi => rfl
  | ctrl => obtain ⟨-, -, heq⟩ | ⟨-, heq⟩ := writeCtrl_cases v s <;> simp [writeTarget, heq]
  | cmd => obtain ⟨-, heq⟩ | ⟨-, heq⟩ := writeCmd_cases v s <;> simp [writeTarget, heq]
  | status => rw [writeTarget, writeStatus_eq]
  | arg | exp | pwlen | textlen | cells => exact writeOperand_host rfl

theorem transact_host (x : Txn) (s : State) : (transact x s).host = s.host := by
  obtain ⟨-, heq⟩ | ⟨g, -, -, heq⟩ | ⟨g, v, -, -, heq⟩ := transact_cases x s <;> rw [heq]
  exact writeTarget_host v s g

/-! The lines. -/

/-- The step that takes a host turn. -/
theorem step_host {s : State} {rest : List Turn} {line : HostLine} (hi : s.inputs = .host :: rest)
    (hline : s.host.prog[s.host.place]? = some line) : step s = hostLine line { s with inputs := rest } := by
  unfold step nextTurn
  rw [hi]
  simp only [takeTurn, hostTurn, hline]

/-- The bus turn in place of a host turn makes the transaction. -/
theorem transact_of_step_bus {s t : State} {x : Txn} {rest : List Turn}
    (h : step { s with inputs := .bus x :: rest } = .next t) : transact x { s with inputs := rest } = t :=
  Host.Outcome.next.inj ((step_bus (s := { s with inputs := .bus x :: rest }) rfl).symm.trans h)

theorem hostLine_wr {s t : State} {off : Nat} {v : HostValue} {w : Word} (hv : v.standsFor s w)
    (ht : transact (wordWrite s off w) s = t) :
    hostLine (.wr off v) s = .next { t with host := { s.host with place := s.host.place + 1 } } := by
  have hhost : t.host = s.host := ht ▸ transact_host _ s
  rw [hostLine, withValue_of_standsFor hv, ht, hostAt, hhost]

theorem hostLine_rd {s t : State} {off : Nat} (n : Nat) (ht : transact (wordRead s off) s = t) :
    hostLine (.rd off n) s
      = .next { t with
          host := { s.host with place := s.host.place + 1, vars := bindVar s.host.vars n t.port.value } } := by
  have hhost : t.host = s.host := ht ▸ transact_host _ s
  rw [hostLine, ht, hostAt, hostBind, hhost]

theorem hostLine_poll {s t : State} {off : Nat} (mask : Word) {v : HostValue} {w : Word} (hv : v.standsFor s w)
    (ht : transact (wordRead s off) s = t) :
    hostLine (.poll off mask v) s
      = .next (if t.port.value &&& mask = w then { t with host := { s.host with place := s.host.place + 1 } }
          else t) := by
  have hhost : t.host = s.host := ht ▸ transact_host _ s
  simp only [hostLine, withValue_of_standsFor hv, ht, hostAt, hhost]

theorem hostLine_bne_of_eq {s : State} {n l : Nat} {mask x w : Word} {v : HostValue}
    (hn : lookupVar s.host.vars n = some x) (hv : v.standsFor s w) (hmask : x &&& mask = w) :
    hostLine (.bne n mask v l) s = .next (hostAt (s.host.place + 1) s) := by
  rw [hostLine, withValue_name hn, withValue_of_standsFor hv, if_pos hmask]

theorem hostLine_bne_of_ne {s : State} {n l k : Nat} {mask x w : Word} {v : HostValue}
    (hn : lookupVar s.host.vars n = some x) (hv : v.standsFor s w) (hmask : x &&& mask ≠ w)
    (hk : labelPlace s.host.prog l = some k) : hostLine (.bne n mask v l) s = .next (hostAt k s) := by
  rw [hostLine, withValue_name hn, withValue_of_standsFor hv, if_neg hmask]
  simp only [hk]

/-! LOAD. -/

/-- LOAD has one line for each 4 bytes begun. -/
theorem hostStores_length (off : Nat) (bs : List Byte) : (hostStores off bs).length = (bs.length + 3) / 4 := by
  induction off, bs using hostStores.induct with
  | case1 | case2 | case3 | case4 => simp [hostStores]
  | case5 off b0 b1 b2 b3 bs ih =>
    simp only [hostStores, List.length_cons, ih]
    omega

/-- Line k of LOAD writes bytes 4k to 4k+3, those past the end being 0x00. -/
theorem hostStores_getElem? {off : Nat} {bs : List Byte} {k : Nat} (hk : k < (bs.length + 3) / 4) :
    (hostStores off bs)[k]?
      = some (.wr (off + 4 * k) (.lit (leVec 32 ((List.range 4).map fun j => bs.getD (4 * k + j) 0x00#8)))) := by
  induction off, bs using hostStores.induct generalizing k with
  | case1 => cases hk
  | case2 | case3 | case4 =>
    obtain rfl : k = 0 := by simpa using hk
    rfl
  | case5 off b0 b1 b2 b3 bs ih =>
    cases k with
    | zero => rfl
    | succ k =>
      have hrest : k < (bs.length + 3) / 4 := by
        simp only [List.length_cons] at hk
        omega
      have hoff : off + 4 + 4 * k = off + 4 * (k + 1) := by omega
      rw [hostStores, List.getElem?_cons_succ, ih hrest, hoff]
      rfl

/-- Settles O60: each line's turn is the bus turn it makes and the host's move, and a LOAD is its lines. -/
theorem hostNotation : Obligations.HostNotation := by
  unfold Obligations.HostNotation
  refine ⟨fun s rest line hi hline => ?lines, fun _ => rfl, rfl, rfl, rfl, fun buf bytes => ?load⟩
  case lines =>
    rw [step_host hi hline]
    refine ⟨?wr, ?rd, ?poll, ?label, ?bne⟩
    case wr =>
      rintro off v w t rfl hv ht
      exact hostLine_wr (s := { s with inputs := rest }) hv (transact_of_step_bus ht)
    case rd =>
      rintro off n t rfl ht
      exact ⟨_, hostLine_rd (s := { s with inputs := rest }) n (transact_of_step_bus ht),
        lookupVar_bindVar_self _ n _, fun m hm => lookupVar_bindVar_of_ne _ _ hm⟩
    case poll =>
      rintro off mask v w t rfl hv ht
      have hpoll := hostLine_poll (s := { s with inputs := rest }) mask hv (transact_of_step_bus ht)
      exact ⟨fun hmask => hpoll.trans (congrArg _ (if_pos hmask)), fun hmask => hpoll.trans (congrArg _ (if_neg hmask))⟩
    case label =>
      rintro l rfl
      rfl
    case bne =>
      rintro n mask v l x w rfl hn hv
      exact ⟨hostLine_bne_of_eq hn hv, fun k hmask hk hfirst =>
        hostLine_bne_of_ne hn hv hmask (labelPlace_eq_some hk hfirst)⟩
  case load =>
    refine ⟨hostStores_length buf.base bytes, fun k hk => ⟨_, hostStores_getElem? hk, fun j hj => ?_⟩⟩
    have hbyte := byteOf_leVec (w := 32) ((List.range 4).map fun j => bytes.getD (4 * k + j) 0x00#8) (by simp) j
      (by simpa using hj)
    rwa [List.getElem_map, List.getElem_range] at hbyte

end Sys2Proof.Machine
end

section
/-! PROOF of O3, O5, O6, O16, O17, O56, O57: the command protocol (40_command_protocol.md R73 to R81). A CMD or CTRL
write is the bus step of Laws/Window.lean at the register's offset; a micro-step does not look at the turns to come; and every
micro-step of a command ends it, or leaves it running, in one of the four ways of `MicroStepEnd`. -/

namespace Sys2Proof.Machine

/-! The sequencer's turn (40_command_protocol.md R75, R76, 42_checksum.md R107). -/

/-- The step that takes a sequencer turn. -/
theorem step_sequencer {s : State} {rest : List Turn} (hi : s.inputs = .sequencer :: rest) :
    step s = sequencerTurn { s with inputs := rest } := by
  unfold step nextTurn
  rw [hi]
  rfl

/-- In phase IDLE and during reset no micro-step is enabled (40_command_protocol.md R75,
70_reset_and_hazards.md R160). -/
theorem sequencerTurn_of_disabled {s : State} (h : s.inReset = true ∨ s.phase = .idle) : sequencerTurn s = .next s := by
  unfold sequencerTurn
  obtain hr | hp := h
  · rw [hr, if_pos rfl]
  · rw [hp, ite_self]

/-- In phase SETUP an illegal word completes with ILLEGAL_COMMAND (40_command_protocol.md R76). -/
theorem sequencerTurn_of_illegalWord {s : State} (hr : s.inReset = false) (hp : s.phase = .setup)
    (hd : ∃ r, decode s.opl = .error r) : sequencerTurn s = .next (complete .illegalCommand s) := by
  obtain ⟨r, hd⟩ := hd
  unfold sequencerTurn
  rw [hr, if_neg Bool.false_ne_true]
  simp only [hp, setupStep, hd]

/-- In phase SETUP, and in phase CHAIN for the hash commands, the sequencer's turn is the micro-step of the command that
OPL decodes to (40_command_protocol.md R76, 42_checksum.md R107). -/
theorem sequencerTurn_of_decode {s : State} {i : Instr} (hr : s.inReset = false) (hd : decode s.opl = .ok i)
    (hp : s.phase = .setup ∨ (s.phase = .chain ∧ (i = .chksum ∨ i = .generate ∨ i = .verify))) :
    sequencerTurn s = exec i s := by
  unfold sequencerTurn
  rw [hr, if_neg Bool.false_ne_true]
  obtain hp | ⟨hp, rfl | rfl | rfl⟩ := hp
  · simp only [hp, setupStep, hd]
  all_goals simp only [hp, chainPhaseStep, hd]

/-- The sequencer's turn moves neither the reset line nor the turns to come. -/
theorem sequencerTurn_frame {s t : State} (h : sequencerTurn s = .next t) :
    t.inReset = s.inReset ∧ t.inputs = s.inputs := by
  have hexec {i : Instr} (hi : sequencerTurn s = exec i s) : t.inReset = s.inReset ∧ t.inputs = s.inputs := by
    obtain ⟨-, -, hreset, -, -, -, -, -, -, -, -, hinputs, -⟩ := exec_frame (hi.symm.trans h)
    exact ⟨hreset, hinputs⟩
  obtain ⟨-, heq⟩ | ⟨-, -, -, heq⟩ | ⟨-, -, i, -, heq⟩ | ⟨-, -, i, -, -, heq⟩ | ⟨-, -, heq⟩ := sequencerTurn_cases s
  · cases h.symm.trans heq; exact ⟨rfl, rfl⟩
  · cases h.symm.trans heq; exact ⟨rfl, rfl⟩
  · exact hexec heq
  · exact hexec heq
  · cases h.symm.trans heq

/-! A micro-step does not look at the turns to come. -/

/-- The state with other turns to come (log 1). -/
def State.withTurns (l : List Turn) (s : State) : State := { s with inputs := l }

section
variable (l : List Turn) (s : State)

@[simp] theorem withTurns_arg : (s.withTurns l).arg = s.arg := rfl
@[simp] theorem withTurns_exp : (s.withTurns l).exp = s.exp := rfl
@[simp] theorem withTurns_iter : (s.withTurns l).iter = s.iter := rfl
@[simp] theorem withTurns_phase : (s.withTurns l).phase = s.phase := rfl
@[simp] theorem withTurns_h : (s.withTurns l).h = s.h := rfl
@[simp] theorem withTurns_pd : (s.withTurns l).pd = s.pd := rfl
@[simp] theorem withTurns_salt : (s.withTurns l).salt = s.salt := rfl
@[simp] theorem withTurns_digest : (s.withTurns l).digest = s.digest := rfl
@[simp] theorem withTurns_text : (s.withTurns l).text = s.text := rfl
@[simp] theorem withTurns_textTooLong : (s.withTurns l).textTooLong = s.textTooLong := rfl
@[simp] theorem withTurns_passwordTooLong : (s.withTurns l).passwordTooLong = s.passwordTooLong := rfl
@[simp] theorem withTurns_argExceeds (n : Nat) : argExceeds n (s.withTurns l) = argExceeds n s := rfl
@[simp] theorem complete_withTurns (c : Code) : complete c (s.withTurns l) = (complete c s).withTurns l := rfl
@[simp] theorem putBytes_withTurns (a : Nat) (bs : List Byte) :
    (s.withTurns l).putBytes a bs = (s.putBytes a bs).withTurns l := rfl
@[simp] theorem putSalt_withTurns (v : BitVec 64) : (s.withTurns l).putSalt v = (s.putSalt v).withTurns l :=
  putBytes_withTurns l s _ _
@[simp] theorem putDigest_withTurns (d : BitVec 128) : (s.withTurns l).putDigest d = (s.putDigest d).withTurns l :=
  putBytes_withTurns l s _ _
@[simp] theorem putText_withTurns (t : List Byte) : (s.withTurns l).putText t = (s.putText t).withTurns l := rfl

end

/-- An update of the state that does not look at the turns to come, and leaves them. -/
def IgnoresTurns (f : State → State) : Prop := ∀ (l : List Turn) (s : State), f (s.withTurns l) = (f s).withTurns l

theorem chainStep_ignoresTurns {finish : State → State} (h : IgnoresTurns finish) :
    IgnoresTurns (chainStep finish) := by
  intro l s
  unfold chainStep
  rw [withTurns_iter]
  split
  · rfl
  · exact h l s

theorem finishChksum_ignoresTurns : IgnoresTurns finishChksum := fun _ _ => by simp [finishChksum]

theorem finishGenerate_ignoresTurns : IgnoresTurns finishGenerate := fun _ _ => by simp [finishGenerate]

theorem finishVerify_ignoresTurns : IgnoresTurns finishVerify := by
  intro l s
  unfold finishVerify
  rw [withTurns_h, withTurns_pd]
  split <;> rfl

theorem setupChksum_ignoresTurns : IgnoresTurns setupChksum := by
  intro l s
  unfold setupChksum
  rw [withTurns_passwordTooLong]
  split <;> rfl

/-- GENERATE has the SETUP rule of CHKSUM (44_record.md R135). -/
theorem setupGenerate_ignoresTurns : IgnoresTurns setupGenerate := setupChksum_ignoresTurns

theorem setupVerify_ignoresTurns : IgnoresTurns setupVerify := by
  intro l s
  unfold setupVerify
  rw [withTurns_textTooLong, withTurns_passwordTooLong, withTurns_text]
  split
  · rfl
  · split <;> rfl

/-- A micro-step that does not look at the turns to come, and leaves them. -/
def MicroStepIgnoresTurns (m : State → Host.Outcome State Fault Refusal) : Prop :=
  ∀ (l : List Turn) (s t : State), m s = .next t → m (s.withTurns l) = .next (t.withTurns l)

theorem IgnoresTurns.microStep {f : State → State} (h : IgnoresTurns f) :
    MicroStepIgnoresTurns fun s => .next (f s) := by
  intro l s t ht
  cases ht
  exact congrArg Host.Outcome.next (h l s)

theorem execSym2val_ignoresTurns : MicroStepIgnoresTurns execSym2val := by
  intro l s t h
  cases h
  rw [execSym2val, withTurns_argExceeds, withTurns_arg]
  split
  · rfl
  · split <;> rfl

theorem execVal2sym_ignoresTurns : MicroStepIgnoresTurns execVal2sym := by
  intro l s t h
  cases h
  rw [execVal2sym, withTurns_argExceeds, withTurns_arg]
  split <;> rfl

theorem execEncgrp_ignoresTurns : MicroStepIgnoresTurns execEncgrp := by
  intro l s t h
  cases h
  rw [execEncgrp, withTurns_argExceeds, withTurns_arg]
  split <;> rfl

theorem execDecgrp_ignoresTurns : MicroStepIgnoresTurns execDecgrp := by
  intro l s t h
  cases h
  rw [execDecgrp, withTurns_arg]
  split <;> rfl

theorem execEncdig_ignoresTurns : MicroStepIgnoresTurns execEncdig :=
  IgnoresTurns.microStep fun _ _ => by simp

theorem execDecdig_ignoresTurns : MicroStepIgnoresTurns execDecdig := by
  intro l s t h
  cases h
  rw [execDecdig, withTurns_textTooLong, withTurns_text]
  split
  · rfl
  · split
    · rfl
    · rw [putDigest_withTurns]
      rfl

theorem execParse_ignoresTurns : MicroStepIgnoresTurns execParse := by
  intro l s t h
  cases h
  rw [execParse, withTurns_textTooLong, withTurns_text]
  split
  · rfl
  · split
    · rfl
    · rw [putSalt_withTurns, putDigest_withTurns]
      rfl

theorem execFormat_ignoresTurns : MicroStepIgnoresTurns execFormat :=
  IgnoresTurns.microStep fun _ _ => by simp

/-- A hash command takes its chain step in phase CHAIN and its SETUP rule in the others (42_checksum.md R107; log 7). -/
theorem hashCommand_ignoresTurns {setup finish : State → State} (hsetup : IgnoresTurns setup)
    (hfinish : IgnoresTurns finish) :
    MicroStepIgnoresTurns fun s => .next (match s.phase with
      | .chain => chainStep finish s
      | _ => setup s) := by
  refine IgnoresTurns.microStep fun l s => ?_
  simp only [withTurns_phase]
  split
  · exact chainStep_ignoresTurns hfinish l s
  · exact hsetup l s

theorem exec_ignoresTurns (i : Instr) : MicroStepIgnoresTurns (exec i) := by
  cases i with
  | sym2val => exact execSym2val_ignoresTurns
  | val2sym => exact execVal2sym_ignoresTurns
  | encgrp => exact execEncgrp_ignoresTurns
  | decgrp => exact execDecgrp_ignoresTurns
  | encdig => exact execEncdig_ignoresTurns
  | decdig => exact execDecdig_ignoresTurns
  | parse => exact execParse_ignoresTurns
  | format => exact execFormat_ignoresTurns
  | chksum => exact hashCommand_ignoresTurns setupChksum_ignoresTurns finishChksum_ignoresTurns
  | generate => exact hashCommand_ignoresTurns setupGenerate_ignoresTurns finishGenerate_ignoresTurns
  | verify => exact hashCommand_ignoresTurns setupVerify_ignoresTurns finishVerify_ignoresTurns

/-- So the sequencer's turn is the same whatever the host will do later. -/
theorem sequencerTurn_ignoresTurns : MicroStepIgnoresTurns sequencerTurn := by
  intro l s t h
  obtain ⟨hstill, heq⟩ | ⟨hr, hp, hd, heq⟩ | ⟨hr, hp, i, hd, heq⟩ | ⟨hr, hp, i, hhash, hd, heq⟩ | ⟨-, -, heq⟩ :=
    sequencerTurn_cases s
  · cases h.symm.trans heq
    exact sequencerTurn_of_disabled (s := s.withTurns l) hstill
  · cases h.symm.trans heq
    exact sequencerTurn_of_illegalWord (s := s.withTurns l) hr hp hd
  · rw [sequencerTurn_of_decode (s := s.withTurns l) hr hd (.inl hp)]
    exact exec_ignoresTurns i l s t (heq.symm.trans h)
  · rw [sequencerTurn_of_decode (s := s.withTurns l) hr hd (.inr ⟨hp, hhash⟩)]
    exact exec_ignoresTurns i l s t (heq.symm.trans h)
  · cases h.symm.trans heq

/-! CMD and CTRL writes outside reset. -/

/-- A CMD write while busy and outside reset is dropped (40_command_protocol.md R74). -/
theorem step_cmdWrite_of_busy {s : State} {a : Nat} {w : Word} {rest : List Turn} (hr : s.inReset = false)
    (hp : s.phase ≠ .idle) (ha : windowOffset a = 0x00C) (hi : s.inputs = busWrite a w :: rest) :
    step s = .next { s with inputs := rest, port := .ack, cmdOvr := true } := by
  have hg : targetOf s.params (windowOffset a) = some .cmd := by rw [ha]; rfl
  rw [step_busWrite hi hr (by rw [ha]) hg, writeTarget]
  obtain ⟨-, heq⟩ | ⟨hb, -⟩ := writeCmd_cases w { s with inputs := rest }
  · rw [heq]
  · exact absurd ((not_busy_iff _).mp hb) hp

/-- A CTRL write outside reset, in every phase (10_state.md R17). -/
theorem step_ctrlWrite {s : State} {a : Nat} {w : Word} {rest : List Turn} (hr : s.inReset = false)
    (ha : windowOffset a = 0x008) (hi : s.inputs = busWrite a w :: rest) :
    step s = .next { writeCtrl w { s with inputs := rest } with port := .ack } := by
  have hg : targetOf s.params (windowOffset a) = some .ctrl := by rw [ha]; rfl
  rw [step_busWrite hi hr (by rw [ha]) hg, writeTarget]

theorem writeCtrl_of_abort {s : State} {w : Word} (hp : s.phase ≠ .idle) (hw : w.getLsbD 0 = true) :
    writeCtrl w s = abort { s with irqEn := w.getLsbD 1 } := by
  obtain ⟨-, -, heq⟩ | ⟨hw' | hb, -⟩ := writeCtrl_cases w s
  · exact heq
  · cases hw.symm.trans hw'
  · exact absurd ((not_busy_iff s).mp hb) hp

theorem writeCtrl_of_no_abort {s : State} {w : Word} (h : s.phase = .idle ∨ w.getLsbD 0 = false) :
    writeCtrl w s = { s with irqEn := w.getLsbD 1 } := by
  obtain ⟨hw, hb, -⟩ | ⟨-, heq⟩ := writeCtrl_cases w s
  · obtain hp | hw' := h
    · exact absurd hp ((busy_iff s).mp hb)
    · cases hw.symm.trans hw'
  · exact heq

/-- An abort write to a busy block (40_command_protocol.md R80). -/
theorem step_ctrlWrite_abort {s : State} {a : Nat} {w : Word} {rest : List Turn} (hr : s.inReset = false)
    (hp : s.phase ≠ .idle) (hw : w.getLsbD 0 = true) (ha : windowOffset a = 0x008)
    (hi : s.inputs = busWrite a w :: rest) :
    step s = .next { abort { s with inputs := rest, irqEn := w.getLsbD 1 } with port := .ack } := by
  rw [step_ctrlWrite hr ha hi, writeCtrl_of_abort (s := { s with inputs := rest }) hp hw]

/-- A CTRL write that aborts nothing (10_state.md R17). -/
theorem step_ctrlWrite_no_abort {s : State} {a : Nat} {w : Word} {rest : List Turn} (hr : s.inReset = false)
    (h : s.phase = .idle ∨ w.getLsbD 0 = false) (ha : windowOffset a = 0x008) (hi : s.inputs = busWrite a w :: rest) :
    step s = .next { s with inputs := rest, port := .ack, irqEn := w.getLsbD 1 } := by
  rw [step_ctrlWrite hr ha hi, writeCtrl_of_no_abort (s := { s with inputs := rest }) h]

/-! Transactions while busy. -/

/-- A transaction selects what its offset selects (20_memory.md R45, R47). -/
theorem targetOf_of_txnTarget {x : Txn} {s : State} {g : Target} (h : txnTarget x s = some g) :
    targetOf s.params (windowOffset x.addr) = some g := by
  unfold txnTarget at h
  split at h
  · cases h
  · split at h
    · cases h
    · cases h
    · split at h
      · exact h
      · cases h

/-- CTRL is at offset 0x008 and nowhere else (20_memory.md R45). -/
theorem offset_of_targetOf_ctrl {p : Params} {off : Nat} (h : targetOf p off = some .ctrl) : off = 0x008 := by
  unfold targetOf at h
  split at h
  case h_3 => rfl
  case h_13 => split at h <;> cases h
  all_goals cases h

/-- Everything a write to a busy block can do: abort the command by CTRL's bit 0, or change IRQ_EN, DONE and the sticky
flags alone (10_state.md R17, R19, 20_memory.md R50, R51, 40_command_protocol.md R74, R80). -/
theorem writeTarget_of_busy_cases {s : State} (hb : s.busy = true) (v : Word) (g : Target) :
    (g = .ctrl ∧ v.getLsbD 0 = true ∧ writeTarget v s g = abort { s with irqEn := v.getLsbD 1 })
      ∨ ∃ e d c i, writeTarget v s g = { s with irqEn := e, done := d, cmdOvr := c, wrIgn := i } := by
  have hoperand (write : State → State) :
      ∃ e d c i, writeOperand write s = { s with irqEn := e, done := d, cmdOvr := c, wrIgn := i } := by
    obtain ⟨-, heq⟩ | ⟨hidle, -⟩ := writeOperand_cases write s
    · exact ⟨_, _, _, _, heq⟩
    · cases hb.symm.trans hidle
  cases g with
  | id | params | result | iterLo | iterHi => exact .inr ⟨_, _, _, _, rfl⟩
  | arg | exp | pwlen | textlen | cells => exact .inr (hoperand fun t => _)
  | status => exact .inr ⟨_, _, _, _, writeStatus_eq v s⟩
  | cmd =>
    obtain ⟨-, heq⟩ | ⟨hidle, -⟩ := writeCmd_cases v s
    · exact .inr ⟨_, _, _, _, heq⟩
    · cases hb.symm.trans hidle
  | ctrl =>
    obtain ⟨hv, -, heq⟩ | ⟨-, heq⟩ := writeCtrl_cases v s
    · exact .inl ⟨rfl, hv, heq⟩
    · exact .inr ⟨_, _, _, _, heq⟩

/-- Everything a transaction on a busy block can do (40_command_protocol.md R79, R80). -/
theorem transact_of_busy_cases {s : State} (hb : s.busy = true) (x : Txn) :
    (∃ w, windowOffset x.addr = 0x008 ∧ x.access = .write w ∧ w.getLsbD 0 = true
        ∧ transact x s = { abort { s with irqEn := w.getLsbD 1 } with port := .ack })
      ∨ ∃ e d c i p, transact x s = { s with irqEn := e, done := d, cmdOvr := c, wrIgn := i, port := p } := by
  obtain ⟨-, heq⟩ | ⟨g, -, -, heq⟩ | ⟨g, v, hg, hx, heq⟩ := transact_cases x s
  · exact .inr ⟨_, _, _, _, _, heq⟩
  · exact .inr ⟨_, _, _, _, _, heq⟩
  · obtain ⟨rfl, hv, hwrite⟩ | ⟨e, d, c, i, hwrite⟩ := writeTarget_of_busy_cases hb v g
    · exact .inl ⟨v, offset_of_targetOf_ctrl (targetOf_of_txnTarget hg), hx, hv, by rw [heq, hwrite]⟩
    · exact .inr ⟨e, d, c, i, .ack, by rw [heq, hwrite]⟩

/-! How a micro-step ends a command. -/

/-- The states a micro-step of command i from s can answer: the command runs on, or it ends in success, in an error that
commits nothing, or in VERIFY's mismatch (40_command_protocol.md R77, R78). -/
inductive MicroStepEnd (i : Instr) (s : State) : State → Prop where
  | running {t : State} (hp : t.phase = .chain) : MicroStepEnd i s t
  | success (u : State) : MicroStepEnd i s (complete .none u)
  | error (c : Code) : MicroStepEnd i s (complete c s)
  | mismatch (u : State) (hi : i = .verify) : MicroStepEnd i s (complete .verificationFailure u)

theorem chainStep_microStepEnd {i : Instr} {s : State} {finish : State → State} (hp : s.phase = .chain)
    (hfinish : MicroStepEnd i s (finish s)) : MicroStepEnd i s (chainStep finish s) := by
  obtain ⟨-, heq⟩ | ⟨-, heq⟩ := chainStep_cases finish s
  · rw [heq]
    exact .running hp
  · rwa [heq]

theorem hashCommand_microStepEnd {i : Instr} {s : State} {setup finish : State → State}
    (hsetup : MicroStepEnd i s (setup s)) (hfinish : MicroStepEnd i s (finish s)) :
    MicroStepEnd i s (match s.phase with
      | .chain => chainStep finish s
      | _ => setup s) := by
  split
  · exact chainStep_microStepEnd ‹_› hfinish
  · exact hsetup

/-- CHKSUM's SETUP rule, which is GENERATE's too (42_checksum.md R110, 44_record.md R135). -/
theorem setupChksum_microStepEnd (i : Instr) (s : State) : MicroStepEnd i s (setupChksum s) := by
  unfold setupChksum
  split
  · exact .error _
  · exact .running (hashStart_phase ..)

theorem setupVerify_microStepEnd (i : Instr) (s : State) : MicroStepEnd i s (setupVerify s) := by
  unfold setupVerify
  split
  · exact .error _
  · split
    · exact .error _
    · exact .running (hashStart_phase ..)

theorem finishVerify_microStepEnd (s : State) : MicroStepEnd .verify s (finishVerify s) := by
  unfold finishVerify
  split
  · exact .success _
  · exact .mismatch _ rfl

/-- Everything a micro-step of a command can answer, by the tests of its rule. -/
theorem exec_microStepEnd (i : Instr) (s : State) : ∃ t, exec i s = .next t ∧ MicroStepEnd i s t := by
  cases i with
  | encdig | format => exact ⟨_, rfl, .success _⟩
  | val2sym | encgrp | decgrp =>
    refine ⟨_, rfl, ?_⟩
    split
    · exact .error _
    · exact .success _
  | sym2val | decdig | parse =>
    refine ⟨_, rfl, ?_⟩
    split
    · exact .error _
    · split
      · exact .error _
      · exact .success _
  | chksum | generate => exact ⟨_, rfl, hashCommand_microStepEnd (setupChksum_microStepEnd _ s) (.success _)⟩
  | verify => exact ⟨_, rfl, hashCommand_microStepEnd (setupVerify_microStepEnd _ s) (finishVerify_microStepEnd s)⟩

/-! The obligations. -/

/-- Settles O3: given or default, the turn is the sequencer's. -/
theorem stepRunsDecodedCommand : Obligations.StepRunsDecodedCommand := by
  unfold Obligations.StepRunsDecodedCommand
  intro s i hr hd hp
  have hb : s.busy = true := by
    obtain hp | ⟨hp, -⟩ := hp <;> exact busy_of_phase hp nofun
  exact ⟨fun hi => (step_alone hi hb hr).trans (sequencerTurn_of_decode hr hd hp),
    fun rest hi => (step_sequencer hi).trans (sequencerTurn_of_decode hr hd hp)⟩

/-- Settles O5: the accepted state, field by field, is `accept`'s. -/
theorem cmdWriteWhileIdleAccepts : Obligations.CmdWriteWhileIdleAccepts := by
  unfold Obligations.CmdWriteWhileIdleAccepts
  intro s a w rest hr hp ha hi
  exact step_cmdWrite_of_idle hr hp ha hi

/-- Settles O6: a dropped CMD write sets CMD_OVR in every busy phase. -/
theorem cmdWriteWhileBusyDropped : Obligations.CmdWriteWhileBusyDropped := by
  unfold Obligations.CmdWriteWhileBusyDropped
  intro s a w rest hr hp ha hi
  exact step_cmdWrite_of_busy hr hp ha hi

/-- Settles O16, by the two cases of a CTRL write. -/
theorem ctrlWriteAndAbort : Obligations.CtrlWriteAndAbort := by
  unfold Obligations.CtrlWriteAndAbort
  intro s a w rest hr ha hi
  exact ⟨fun hp hw => step_ctrlWrite_abort hr hp hw ha hi, fun h => step_ctrlWrite_no_abort hr h ha hi⟩

/-- Settles O17: a CTRL write finds the completed block idle, and the sequencer's turn finds the aborted one idle. -/
theorem abortAgainstCompletion : Obligations.AbortAgainstCompletion := by
  unfold Obligations.AbortAgainstCompletion
  intro s t a w hr hp ha hw ht hidle
  have halone : sequencerTurn (s.withTurns []) = .next t :=
    (step_alone (s := s.withTurns []) rfl ((busy_iff _).mpr hp) hr).symm.trans ht
  obtain ⟨hreset, hinputs⟩ := sequencerTurn_frame halone
  constructor
  · have hcomplete : step { s with inputs := [.sequencer, busWrite a w] } = .next (t.withTurns [busWrite a w]) :=
      (step_sequencer rfl).trans (sequencerTurn_ignoresTurns [busWrite a w] (s.withTurns []) t halone)
    have hctrl : step (t.withTurns [busWrite a w])
        = .next { t with inputs := t.inputs, irqEn := w.getLsbD 1, port := .ack } := by
      rw [step_ctrlWrite_no_abort (s := t.withTurns [busWrite a w]) (hreset.trans hr) (.inl hidle) ha rfl, hinputs]
      rfl
    exact run_two hcomplete hctrl
  · exact run_two (step_ctrlWrite_abort hr hp hw ha rfl)
      ((step_sequencer rfl).trans (sequencerTurn_of_disabled (.inr rfl)))

/-- Settles O56, by what a transaction on a busy block can do. -/
theorem hostTransactionsKeepInputs : Obligations.HostTransactionsKeepInputs := by
  unfold Obligations.HostTransactionsKeepInputs
  intro s x rest hb hi
  refine ⟨_, step_bus hi, ?_⟩
  obtain ⟨w, ha, hx, hw, heq⟩ | ⟨e, d, c, i, p, heq⟩ := transact_of_busy_cases (s := { s with inputs := rest }) hb x
  · rw [heq]
    exact ⟨rfl, .inr ⟨rfl, rfl, rfl, ha, w, hx, hw⟩⟩
  · rw [heq]
    exact ⟨rfl, .inl ⟨rfl, rfl⟩⟩

/-- Settles O57, by the ways a micro-step can end a command. -/
theorem noPartialResults : Obligations.NoPartialResults := by
  unfold Obligations.NoPartialResults
  intro s i
  obtain ⟨t, hexec, hend⟩ := exec_microStepEnd i s
  refine ⟨t, hexec, fun hidle herror => ?_⟩
  cases hend with
  | running hp => cases hp.symm.trans hidle
  | success u => exact absurd rfl herror
  | error c => exact .inr rfl
  | mismatch u hi => exact .inl ⟨hi, rfl⟩

end Sys2Proof.Machine
end

section
/-! PROOF of O23, O24: the alphabet and the groups. ALPHA is the source's list (30_encoding.md R69) and VAL its inverse,
so a byte is in the alphabet exactly when it is the symbol of a value. Group encode and group decode read one 24-bit
word, as three bytes and as four values (41_codec.md R87, R88). -/

namespace Sys2Proof.Machine

/-! The alphabet. -/

/-- ALPHA as a number (41_codec.md R85). -/
theorem alpha_toNat (v : Sextet) :
    (alpha v).toNat =
      v.toNat + if v.toNat ≤ 11 then 0x2E else if v.toNat ≤ 37 then 0x35 else 0x3B := by
  have hv := v.isLt
  simp only [alpha]
  split_ifs <;> simp <;> omega

/-- In each of its three ranges VAL undoes ALPHA (41_codec.md R86). -/
theorem alpha_of_symVal {c : Byte} {v : Sextet} (h : symVal c = some v) : alpha v = c := by
  have hoffset (k : Nat) (hk : k ≤ c.toNat ∧ c.toNat < k + 64) :
      ((c - BitVec.ofNat 8 k).setWidth 6 : Sextet).toNat = c.toNat - k := by
    have hc := c.isLt
    rw [BitVec.toNat_setWidth, BitVec.toNat_sub, BitVec.toNat_ofNat]
    omega
  apply BitVec.eq_of_toNat_eq
  simp only [symVal] at h
  split_ifs at h with hdigit hupper hlower <;> cases h <;> rw [alpha_toNat, hoffset _ (by omega)]
  · rw [if_pos (by omega)]
    omega
  · rw [if_neg (by omega), if_pos (by omega)]
    omega
  · rw [if_neg (by omega), if_neg (by omega)]
    omega

/-- VAL answers a value for its symbol and for no other byte (41_codec.md R86). -/
theorem symVal_eq_some_iff (c : Byte) (v : Sextet) : symVal c = some v ↔ symbolOf v = c := by
  constructor
  · intro h
    rw [← alpha_eq_symbolOf, alpha_of_symVal h]
  · have hvalue : ∀ v : Sextet, symVal (symbolOf v) = some v := by decide
    rintro rfl
    exact hvalue v

@[simp] theorem symVal_symbolOf (v : Sextet) : symVal (symbolOf v) = some v := (symVal_eq_some_iff _ v).mpr rfl

/-- The entries of the alphabet list are the symbols of the 64 values (30_encoding.md R69). -/
theorem mem_legacyAlphabet_iff (c : Byte) : c ∈ legacyAlphabet ↔ ∃ v, symbolOf v = c := by
  have hlist : legacyAlphabet = (List.range 64).map (fun n => symbolOf (BitVec.ofNat 6 n)) := by decide
  constructor
  · rw [hlist, List.mem_map]
    exact fun ⟨n, _, hn⟩ => ⟨_, hn⟩
  · rintro ⟨v, rfl⟩
    rw [hlist, List.mem_map]
    exact ⟨v.toNat, List.mem_range.mpr v.isLt, by rw [BitVec.ofNat_toNat, BitVec.setWidth_eq]⟩

@[simp] theorem symbolOf_mem_legacyAlphabet (v : Sextet) : symbolOf v ∈ legacyAlphabet :=
  (mem_legacyAlphabet_iff _).mpr ⟨v, rfl⟩

/-- VAL is undefined exactly outside the alphabet (41_codec.md R86). -/
theorem symVal_eq_none_iff (c : Byte) : symVal c = none ↔ c ∉ legacyAlphabet := by
  simp [mem_legacyAlphabet_iff, ← symVal_eq_some_iff, Option.eq_none_iff_forall_ne_some]

/-- Settles O23: ALPHA against the list, and VAL against ALPHA's inverse. -/
theorem alphabetMapsAgree : Obligations.AlphabetMapsAgree := by
  unfold Obligations.AlphabetMapsAgree
  refine ⟨rfl, fun v => ⟨alpha_eq_symbolOf v, ?_⟩, symVal_eq_some_iff, symVal_eq_none_iff⟩
  rw [alpha_eq_symbolOf, symVal_symbolOf]

/-! Groups. -/

/-- The 24-bit word of a group: its bytes are its three data bytes, its sextets the values of its four symbols. -/
theorem groupWord_eq_append (v0 v1 v2 v3 : Sextet) :
    (v0.setWidth 24 ||| (v1.setWidth 24 <<< 6) ||| (v2.setWidth 24 <<< 12) ||| (v3.setWidth 24 <<< 18) : BitVec 24)
      = v3 ++ v2 ++ v1 ++ v0 := by
  calc
    _ = v3.setWidth 24 <<< 18 ||| v2.setWidth 24 <<< 12 ||| v1.setWidth 24 <<< 6 ||| v0.setWidth 24 := by
      rw [BitVec.or_comm _ (v3.setWidth 24 <<< 18), BitVec.or_comm _ (v2.setWidth 24 <<< 12),
        BitVec.or_comm (v0.setWidth 24)]
      simp only [BitVec.or_assoc]
    _ = (v3 ++ v2 ++ v1 ++ v0).setWidth 24 := by
      rw [BitVec.setWidth_append_append_append_eq_shiftLeft_setWidth_or]
    _ = _ := BitVec.setWidth_eq _

/-- The four sextets of a group's word make it up. -/
theorem sextets_append (w : BitVec 24) :
    w.extractLsb' 18 6 ++ w.extractLsb' 12 6 ++ w.extractLsb' 6 6 ++ w.extractLsb' 0 6 = w := by
  rw [BitVec.extractLsb'_append_extractLsb'_eq_extractLsb' (by rfl),
    BitVec.extractLsb'_append_extractLsb'_eq_extractLsb' (by rfl),
    BitVec.extractLsb'_append_extractLsb'_eq_extractLsb' (by rfl)]
  exact BitVec.extractLsb'_eq_self

/-- The three bytes of a group's word make it up. -/
theorem bytes_append (w : BitVec 24) : byteOf w 2 ++ byteOf w 1 ++ byteOf w 0 = w :=
  (byteOf_append_three w 0).trans BitVec.extractLsb'_eq_self

/-- The middle one of three parts put together. -/
theorem extractLsb'_append_middle {k l m : Nat} (x : BitVec k) (y : BitVec l) (z : BitVec m) :
    (x ++ y ++ z).extractLsb' m l = y := by
  rw [BitVec.extractLsb'_append_eq_of_le (Nat.le_refl m), Nat.sub_self, BitVec.extractLsb'_append_eq_right]

/-- The sextets of the word of four values are the values. -/
theorem sextets_of_append (v0 v1 v2 v3 : Sextet) :
    (v3 ++ v2 ++ v1 ++ v0).extractLsb' 0 6 = v0 ∧ (v3 ++ v2 ++ v1 ++ v0).extractLsb' 6 6 = v1
      ∧ (v3 ++ v2 ++ v1 ++ v0).extractLsb' 12 6 = v2 ∧ (v3 ++ v2 ++ v1 ++ v0).extractLsb' 18 6 = v3 := by
  have hhigh (k : Nat) (h : 6 ≤ k) :
      (v3 ++ v2 ++ v1 ++ v0).extractLsb' k 6 = (v3 ++ v2 ++ v1).extractLsb' (k - 6) 6 :=
    BitVec.extractLsb'_append_eq_of_le h
  refine ⟨BitVec.extractLsb'_append_eq_right, extractLsb'_append_middle _ _ _, ?_, ?_⟩
  · rw [hhigh 12 (by decide)]
    exact extractLsb'_append_middle _ _ _
  · rw [hhigh 18 (by decide), BitVec.extractLsb'_append_eq_of_le (by decide)]
    exact BitVec.extractLsb'_append_eq_left

/-- The bytes of the word of three bytes are the bytes. -/
theorem bytes_of_append (b0 b1 b2 : Byte) :
    byteOf (b2 ++ b1 ++ b0) 0 = b0 ∧ byteOf (b2 ++ b1 ++ b0) 1 = b1 ∧ byteOf (b2 ++ b1 ++ b0) 2 = b2 := by
  refine ⟨BitVec.extractLsb'_append_eq_right, extractLsb'_append_middle _ _ _, ?_⟩
  rw [byteOf, BitVec.extractLsb'_append_eq_of_le (by decide)]
  exact BitVec.extractLsb'_append_eq_left

/-- Group decode of four symbols reads the word of their values by bytes (41_codec.md R88). -/
theorem decodeGroup_symbolOf (v0 v1 v2 v3 : Sextet) :
    decodeGroup (symbolOf v0) (symbolOf v1) (symbolOf v2) (symbolOf v3)
      = some (byteOf (v3 ++ v2 ++ v1 ++ v0) 0, byteOf (v3 ++ v2 ++ v1 ++ v0) 1, byteOf (v3 ++ v2 ++ v1 ++ v0) 2) := by
  simp only [decodeGroup, symVal_symbolOf, groupWord_eq_append]
  rfl

/-- Group encode reads the word of three bytes by sextets (41_codec.md R87). -/
theorem encodeGroup_eq (b0 b1 b2 : Byte) :
    encodeGroup b0 b1 b2 =
      (symbolOf ((b2 ++ b1 ++ b0).extractLsb' 0 6), symbolOf ((b2 ++ b1 ++ b0).extractLsb' 6 6),
        symbolOf ((b2 ++ b1 ++ b0).extractLsb' 12 6), symbolOf ((b2 ++ b1 ++ b0).extractLsb' 18 6)) := by
  simp only [encodeGroup, alpha_eq_symbolOf]

/-- Group decode fails on a byte outside the alphabet (41_codec.md R88). -/
theorem decodeGroup_eq_none {s0 s1 s2 s3 : Byte} (h : ∃ c ∈ [s0, s1, s2, s3], c ∉ legacyAlphabet) :
    decodeGroup s0 s1 s2 s3 = none := by
  unfold decodeGroup
  split
  next v0 v1 v2 v3 h0 h1 h2 h3 =>
    rw [symVal_eq_some_iff] at h0 h1 h2 h3
    subst h0 h1 h2 h3
    simp at h
  next => rfl

/-- Four bytes of the alphabet are the symbols of four values. -/
theorem exists_group_values {s0 s1 s2 s3 : Byte} (h : ∀ c ∈ [s0, s1, s2, s3], c ∈ legacyAlphabet) :
    ∃ v0 v1 v2 v3 : Sextet, symbolOf v0 = s0 ∧ symbolOf v1 = s1 ∧ symbolOf v2 = s2 ∧ symbolOf v3 = s3 := by
  simp only [List.forall_mem_cons, mem_legacyAlphabet_iff] at h
  obtain ⟨⟨v0, h0⟩, ⟨v1, h1⟩, ⟨v2, h2⟩, ⟨v3, h3⟩, -⟩ := h
  exact ⟨v0, v1, v2, v3, h0, h1, h2, h3⟩

/-- Group decode undoes group encode (41_codec.md R88). -/
theorem decodeGroup_encodeGroup (b0 b1 b2 : Byte) :
    decodeGroup (encodeGroup b0 b1 b2).1 (encodeGroup b0 b1 b2).2.1 (encodeGroup b0 b1 b2).2.2.1
      (encodeGroup b0 b1 b2).2.2.2 = some (b0, b1, b2) := by
  obtain ⟨h0, h1, h2⟩ := bytes_of_append b0 b1 b2
  simp only [encodeGroup_eq, decodeGroup_symbolOf, sextets_append, h0, h1, h2]

/-- Group encode undoes group decode (41_codec.md R88). -/
theorem encodeGroup_of_decodeGroup {s0 s1 s2 s3 b0 b1 b2 : Byte} (h : decodeGroup s0 s1 s2 s3 = some (b0, b1, b2)) :
    encodeGroup b0 b1 b2 = (s0, s1, s2, s3) := by
  have halphabet : ∀ c ∈ [s0, s1, s2, s3], c ∈ legacyAlphabet := by
    by_contra hc
    rw [decodeGroup_eq_none (by push Not at hc; exact hc)] at h
    cases h
  obtain ⟨v0, v1, v2, v3, rfl, rfl, rfl, rfl⟩ := exists_group_values halphabet
  rw [decodeGroup_symbolOf] at h
  cases h
  obtain ⟨h0, h1, h2, h3⟩ := sextets_of_append v0 v1 v2 v3
  simp only [encodeGroup_eq, bytes_append, h0, h1, h2, h3]

/-- Settles O24: bytes of the alphabet are symbols of values, which group decode accepts. -/
theorem groupRoundTrip : Obligations.GroupRoundTrip := by
  unfold Obligations.GroupRoundTrip
  refine ⟨decodeGroup_encodeGroup, fun s0 s1 s2 s3 =>
    ⟨fun b0 b1 b2 => encodeGroup_of_decodeGroup, ?_, decodeGroup_eq_none⟩⟩
  intro hnone
  by_contra hc
  obtain ⟨v0, v1, v2, v3, rfl, rfl, rfl, rfl⟩ := exists_group_values (by push Not at hc; exact hc)
  rw [decodeGroup_symbolOf] at hnone
  cases hnone

end Sys2Proof.Machine
end

section
/-! PROOF of O26, O27, O28: the digest field. The values of a text of symbols are the digits of one number, W of
41_codec.md R90, to base 64; its low 128 bits are the digest and its bits [131:128] the discarded ones. Three readings
of that number are compared: by bits (30_encoding.md R71), by bytes from the right (41_codec.md R91), and ENC22's. -/

namespace Sys2Proof.Machine

/-! The values of a text. -/

/-- A text has values exactly when it is the text of their symbols (41_codec.md R86). -/
theorem textValues_eq_some_iff (t : List Byte) (vs : List Sextet) : textValues t = some vs ↔ vs.map symbolOf = t := by
  induction t generalizing vs with
  | nil => simp [textValues, eq_comm]
  | cons c t ih =>
    rw [textValues]
    cases vs with
    | nil => split <;> simp
    | cons v vs =>
      rw [List.map_cons, List.cons.injEq, ← symVal_eq_some_iff, ← ih]
      split
      next hv hvs => simp [hv, hvs]
      next hnone => exact iff_of_false nofun fun ⟨hv, hvs⟩ => hnone v vs hv hvs

/-- A text of alphabet bytes is the text of the symbols of some values. -/
theorem exists_values {t : List Byte} (h : ∀ c ∈ t, c ∈ legacyAlphabet) :
    ∃ vs : List Sextet, vs.map symbolOf = t := by
  induction t with
  | nil => exact ⟨[], rfl⟩
  | cons c t ih =>
    obtain ⟨hc, ht⟩ := List.forall_mem_cons.mp h
    obtain ⟨v, rfl⟩ := (mem_legacyAlphabet_iff c).mp hc
    obtain ⟨vs, rfl⟩ := ih ht
    exact ⟨v :: vs, rfl⟩

/-- A text with a byte outside the alphabet has no values. -/
theorem textValues_eq_none {t : List Byte} (h : ∃ c ∈ t, c ∉ legacyAlphabet) : textValues t = none := by
  obtain ⟨c, hc, hout⟩ := h
  rw [Option.eq_none_iff_forall_ne_some]
  intro vs hvs
  rw [textValues_eq_some_iff] at hvs
  subst hvs
  obtain ⟨v, -, rfl⟩ := List.mem_map.mp hc
  exact hout (symbolOf_mem_legacyAlphabet v)

/-! The number W of a field. -/

/-- Bit i of W is bit i mod 6 of value i / 6 (30_encoding.md R71). -/
theorem fieldValue_testBit (vs : List Sextet) (i : Nat) :
    (fieldValue vs).testBit i = (vs.getD (i / 6) 0#6).getLsbD (i % 6) := by
  induction vs generalizing i with
  | nil => simp [fieldValue]
  | cons v vs ih =>
    rw [fieldValue, Nat.add_comm, Nat.testBit_two_pow_mul_add _ v.isLt]
    by_cases hi : i < 6
    · rw [if_pos hi, Nat.div_eq_of_lt hi, Nat.mod_eq_of_lt hi]
      rfl
    · have hdiv : i / 6 = (i - 6) / 6 + 1 := by omega
      have hmod : i % 6 = (i - 6) % 6 := by omega
      rw [if_neg hi, ih, hdiv, hmod, List.getD_cons_succ]

/-- Digit k of W to base 64 is value k. -/
theorem fieldValue_digit (vs : List Sextet) (k : Nat) :
    fieldValue vs / 2 ^ (6 * k) % 2 ^ 6 = (vs.getD k 0#6).toNat := by
  refine Nat.eq_of_testBit_eq fun j => ?_
  rw [Nat.testBit_mod_two_pow, Nat.testBit_div_two_pow, fieldValue_testBit, BitVec.testBit_toNat]
  by_cases hj : j < 6
  · have hdiv : (j + 6 * k) / 6 = k := by omega
    have hmod : (j + 6 * k) % 6 = j := by omega
    rw [hdiv, hmod, decide_eq_true hj, Bool.true_and]
  · rw [BitVec.getLsbD_of_ge _ j (by omega), decide_eq_false hj, Bool.false_and]

/-- n values make a number of 6n bits. -/
theorem fieldValue_lt (vs : List Sextet) : fieldValue vs < 2 ^ (6 * vs.length) := by
  induction vs with
  | nil => simp [fieldValue]
  | cons v vs ih =>
    have hv := v.isLt
    rw [fieldValue, List.length_cons, Nat.mul_succ, Nat.pow_add]
    omega

theorem fieldValue_append (us vs : List Sextet) :
    fieldValue (us ++ vs) = fieldValue us + 2 ^ (6 * us.length) * fieldValue vs := by
  induction us with
  | nil => simp [fieldValue]
  | cons u us ih =>
    rw [List.cons_append, fieldValue, fieldValue, ih, List.length_cons, Nat.mul_succ, Nat.pow_add]
    ring

/-- The digest that values carry is the low 128 bits of W (30_encoding.md R71, 41_codec.md R90). -/
theorem digestOfValues_iff (vs : List Sextet) (D : BitVec 128) :
    digestOfValues vs D ↔ D = BitVec.ofNat 128 (fieldValue vs) := by
  constructor
  · intro h
    refine BitVec.eq_of_getLsbD_eq fun i hi => ?_
    rw [h i hi, BitVec.getLsbD_ofNat, fieldValue_testBit]
    simp [hi]
  · rintro rfl i hi
    rw [BitVec.getLsbD_ofNat, fieldValue_testBit]
    simp [hi]

/-- The discarded bits [131:128] of W are bits [5:2] of value 21 (41_codec.md R92). -/
theorem discardedBits_iff (vs : List Sextet) :
    fieldValue vs / 2 ^ 128 % 2 ^ 4 ≠ 0 ↔ 4 ≤ (vs.getD 21 0#6).toNat := by
  have hdigit := fieldValue_digit vs 21
  omega

/-! DEC22. -/

/-- DEC22 of 22 symbols (41_codec.md R90, R92). -/
theorem dec22_symbols {vs : List Sextet} (h : vs.length = 22) :
    dec22 (vs.map symbolOf) = .ok (BitVec.ofNat 128 (fieldValue vs), decide (4 ≤ (vs.getD 21 0#6).toNat)) := by
  have hvalues : textValues (vs.map symbolOf) = some vs := (textValues_eq_some_iff _ vs).mpr rfl
  rcases dec22_cases (vs.map symbolOf) with ⟨hnone, -⟩ | ⟨_, -, hlength, -⟩ | ⟨ws, hws, -, -, hok⟩
  · rw [hvalues] at hnone
    cases hnone
  · rw [List.length_map] at hlength
    exact absurd h hlength
  · rw [hvalues] at hws
    cases hws
    rw [hok, decide_eq_decide.mpr (discardedBits_iff vs)]

/-- DEC22 answers a digest for no text but 22 symbols (41_codec.md R90). -/
theorem symbols_of_dec22 {t : List Byte} {r : BitVec 128 × Bool} (h : dec22 t = .ok r) :
    ∃ vs : List Sextet, vs.length = 22 ∧ vs.map symbolOf = t := by
  rcases dec22_cases t with ⟨-, herror⟩ | ⟨_, -, -, herror⟩ | ⟨vs, hvs, hlength, -, -⟩
  · rw [herror] at h
    cases h
  · rw [herror] at h
    cases h
  · exact ⟨vs, hlength, (textValues_eq_some_iff t vs).mp hvs⟩

/-- A byte outside the alphabet is found before the length is checked (41_codec.md R90). -/
theorem dec22_of_outside_alphabet {t : List Byte} (h : ∃ c ∈ t, c ∉ legacyAlphabet) :
    dec22 t = .error .decodeFailure := by
  rw [dec22, textValues_eq_none h]

/-- A text of symbols of another length (41_codec.md R90). -/
theorem dec22_of_length_ne {t : List Byte} (h : ∀ c ∈ t, c ∈ legacyAlphabet) (hlength : t.length ≠ 22) :
    dec22 t = .error .malformedDigest := by
  obtain ⟨vs, rfl⟩ := exists_values h
  rcases dec22_cases (vs.map symbolOf) with ⟨hnone, -⟩ | ⟨_, -, -, herror⟩ | ⟨_, -, -, h22, -⟩
  · rw [(textValues_eq_some_iff _ vs).mpr rfl] at hnone
    cases hnone
  · exact herror
  · exact absurd h22 hlength

/-- Settles O26: the three outcomes, the digest by its bits. -/
theorem digestDecodeOutcomes : Obligations.DigestDecodeOutcomes := by
  unfold Obligations.DigestDecodeOutcomes
  refine fun t => ⟨dec22_of_outside_alphabet, dec22_of_length_ne, ?_⟩
  rintro vs D hlength rfl hD
  rw [dec22_symbols hlength, (digestOfValues_iff vs D).mp hD]

/-! ENC22 against DEC22. -/

/-- The 22 values of a digest: value i is digest bits [6i+5:6i] (30_encoding.md R71). -/
def digestValues (D : BitVec 128) : List Sextet := (List.range 22).map (fun i => D.extractLsb' (6 * i) 6)

/-- ENC22 gives the symbols of the digest's values (30_encoding.md R71). -/
theorem enc22_eq_symbols (D : BitVec 128) : enc22 D = (digestValues D).map symbolOf := by
  rw [digestSymbolLayout D, symbolsOfDigest, digestValues, List.map_map]
  refine List.map_congr_left fun i hi => ?_
  rw [BitVec.extractLsb'_setWidth_of_le (by rw [List.mem_range] at hi; omega)]
  rfl

@[simp] theorem digestValues_length (D : BitVec 128) : (digestValues D).length = 22 := rfl

theorem digestValues_getD (D : BitVec 128) {k : Nat} (h : k < 22) :
    (digestValues D).getD k 0#6 = D.extractLsb' (6 * k) 6 := by
  simp [digestValues, h]

/-- W of the values of a digest is the digest (41_codec.md R93). -/
theorem fieldValue_digestValues (D : BitVec 128) : fieldValue (digestValues D) = D.toNat := by
  refine Nat.eq_of_testBit_eq fun i => ?_
  rw [fieldValue_testBit, BitVec.testBit_toNat]
  by_cases hi : i / 6 < 22
  · have hmod : i % 6 < 6 := by omega
    rw [digestValues_getD D hi, BitVec.getLsbD_extractLsb', decide_eq_true hmod, Bool.true_and, Nat.div_add_mod]
  · rw [BitVec.getLsbD_of_ge D i (by omega), List.getD_eq_default _ _ (by simpa using hi), BitVec.getLsbD_zero]

/-- 22 values whose W is a digest are that digest's values (41_codec.md R93). -/
theorem digestValues_eq {vs : List Sextet} {D : BitVec 128} (h : vs.length = 22) (hvalue : fieldValue vs = D.toNat) :
    digestValues D = vs := by
  refine List.ext_getElem (h.symm ▸ digestValues_length D) fun k hk hk' => ?_
  rw [← List.getD_eq_getElem _ 0#6 hk, ← List.getD_eq_getElem _ 0#6 hk', digestValues_getD D hk]
  apply BitVec.eq_of_toNat_eq
  rw [extractLsb'_eq_ofNat_div, BitVec.toNat_ofNat, ← hvalue, fieldValue_digit]

/-- DEC22 answers a canonical digest when W, with its discarded bits, is that digest (41_codec.md R92, R93). -/
theorem dec22_canonical_iff {vs : List Sextet} (h : vs.length = 22) (D : BitVec 128) :
    dec22 (vs.map symbolOf) = .ok (D, false) ↔ fieldValue vs = D.toNat := by
  have hlt := fieldValue_lt vs
  rw [h] at hlt
  rw [dec22_symbols h, Except.ok.injEq, Prod.mk.injEq, decide_eq_false_iff_not, ← discardedBits_iff,
    ← BitVec.toNat_inj, BitVec.toNat_ofNat]
  omega

/-- Settles O27: both directions through W. -/
theorem digestFieldRoundTrip : Obligations.DigestFieldRoundTrip := by
  unfold Obligations.DigestFieldRoundTrip
  constructor
  · intro D
    rw [enc22_eq_symbols]
    exact (dec22_canonical_iff (digestValues_length D) D).mpr (fieldValue_digestValues D)
  · intro t D hok
    obtain ⟨vs, hlength, rfl⟩ := symbols_of_dec22 hok
    rw [enc22_eq_symbols, digestValues_eq hlength ((dec22_canonical_iff hlength D).mp hok)]

/-! The source's right-to-left procedure. -/

theorem toNat_append_eq {m n : Nat} (x : BitVec m) (y : BitVec n) : (x ++ y).toNat = 2 ^ n * x.toNat + y.toNat := by
  rw [BitVec.toNat_append, ← Nat.shiftLeft_add_eq_or_of_lt y.isLt, Nat.shiftLeft_eq, Nat.mul_comm]

/-- The bytes of a big-endian group, reversed, make the number of its reversed values (41_codec.md R91). -/
theorem leNat_bigEndianGroup (v0 v1 v2 v3 : Sextet) :
    leNat (leBytes 3 (v0 ++ v1 ++ v2 ++ v3)) = fieldValue [v3, v2, v1, v0] := by
  rw [leNat_leBytes, Nat.mod_eq_of_lt (BitVec.isLt _)]
  simp only [toNat_append_eq, fieldValue]
  omega

/-- A group in front of others gives the last bytes, reversed (41_codec.md R91). -/
theorem bigEndianGroups_cons_reverse (v0 v1 v2 v3 : Sextet) (vs : List Sextet) :
    (bigEndianGroups (v0 :: v1 :: v2 :: v3 :: vs)).reverse
      = (bigEndianGroups vs).reverse ++ leBytes 3 (v0 ++ v1 ++ v2 ++ v3) := by
  simp only [bigEndianGroups, List.reverse_cons, List.append_assoc]
  rfl

/-- n big-endian groups give 3n bytes, and both read backwards are the same number (41_codec.md R91). -/
theorem bigEndianGroups_reverse {n : Nat} {us : List Sextet} (h : us.length = 4 * n) :
    (bigEndianGroups us).reverse.length = 3 * n ∧ leNat (bigEndianGroups us).reverse = fieldValue us.reverse := by
  induction n generalizing us with
  | zero =>
    obtain rfl := List.length_eq_zero_iff.mp h
    exact ⟨rfl, rfl⟩
  | succ n ih =>
    match us, h with
    | v0 :: v1 :: v2 :: v3 :: vs, h =>
      have hvs : vs.length = 4 * n := by simpa [Nat.mul_succ] using h
      obtain ⟨hlength, hvalue⟩ := ih hvs
      have hreverse : (v0 :: v1 :: v2 :: v3 :: vs).reverse = vs.reverse ++ [v3, v2, v1, v0] := by simp
      have hbits : 8 * (3 * n) = 6 * (4 * n) := by omega
      rw [bigEndianGroups_cons_reverse, List.length_append, leBytes_length, hlength, leNat_append, hlength, hvalue,
        leNat_bigEndianGroup, hreverse, fieldValue_append, List.length_reverse, hvs, hbits]
      exact ⟨rfl, rfl⟩

/-- The first n bytes of a sequence are those of its value cut to 8n bits. -/
theorem take_eq_leBytes {bs : List Byte} {n : Nat} (h : n ≤ bs.length) :
    bs.take n = leBytes n (leVec (8 * n) bs) := by
  have hlength : (bs.take n).length = n := List.length_take_of_le h
  have hvalue : leVec (8 * n) bs = leVec (8 * n) (bs.take n) := by
    apply BitVec.eq_of_toNat_eq
    rw [leVec, leVec, BitVec.toNat_ofNat, BitVec.toNat_ofNat]
    conv_lhs => rw [← List.take_append_drop n bs, leNat_append, hlength, Nat.add_mul_mod_self_left]
  have hbytes := leBytes_leVec (w := 8 * n) (bs.take n) (by rw [hlength])
  rw [hlength] at hbytes
  rw [hvalue, hbytes]

/-- Settles O28: the two padding values are the most significant ones, and both sides are the low 128 bits of W. -/
theorem rightToLeftDecodingAgrees : Obligations.RightToLeftDecodingAgrees := by
  unfold Obligations.RightToLeftDecodingAgrees
  intro vs h
  refine ⟨_, _, dec22_symbols h, ?_⟩
  have hpadded : rightToLeftDigest vs = ((bigEndianGroups ([0#6, 0#6] ++ vs.reverse)).reverse).take 16 := by
    simp only [rightToLeftDigest, List.length_reverse, h]
    rfl
  obtain ⟨hlength, hvalue⟩ := bigEndianGroups_reverse (n := 6) (us := [0#6, 0#6] ++ vs.reverse) (by simp [h])
  have hW : fieldValue ([0#6, 0#6] ++ vs.reverse).reverse = fieldValue vs := by
    rw [List.reverse_append, List.reverse_reverse, fieldValue_append]
    simp [fieldValue]
  rw [hpadded, take_eq_leBytes (by rw [hlength]; decide), leVec, hvalue, hW]

end Sys2Proof.Machine
end

section
/-! PROOF of O33 to O38: the six codec commands (41_codec.md R95 to R100). Each is one micro-step; what it answers is
read off the facts about the alphabet, the groups and the digest field, for every operand. -/

namespace Sys2Proof.Machine

/-! Completion and the operand checks. -/

/-- A completion as the statements write it (40_command_protocol.md R77). -/
theorem complete_eq (c : Code) (s : State) :
    complete c s = { s with errcode := c, phase := .idle, done := true } := rfl

/-- The operand check looks at ARG[31:n] (30_encoding.md R66). -/
theorem argExceeds_iff {n m : Nat} (h : n + m = 32) (s : State) :
    argExceeds n s = true ↔ s.arg.extractLsb' n m ≠ 0#m := by
  have hfits : s.arg.toNat / 2 ^ n < 2 ^ m := by
    rw [Nat.div_lt_iff_lt_mul (by positivity), ← Nat.pow_add, Nat.add_comm, h]
    exact s.arg.isLt
  have hfield : (s.arg.extractLsb' n m).toNat = (s.arg >>> n).toNat := by
    rw [extractLsb'_eq_ofNat_div, BitVec.toNat_ofNat, Nat.mod_eq_of_lt hfits, BitVec.toNat_ushiftRight,
      Nat.shiftRight_eq_div_pow]
  rw [argExceeds, decide_eq_true_iff, ne_eq, ne_eq, ← BitVec.toNat_inj, ← BitVec.toNat_inj, hfield,
    BitVec.toNat_ofNat, BitVec.toNat_ofNat, Nat.zero_mod, Nat.zero_mod]

/-- An operand of n bits passes the check. -/
theorem not_argExceeds {n m : Nat} (h : n + m = 32) {s : State} (hz : s.arg.extractLsb' n m = 0#m) :
    ¬argExceeds n s = true :=
  fun hexceeds => (argExceeds_iff h s).mp hexceeds hz

/-- Zero extension written as zeros put in front. -/
theorem zero_append_eq_setWidth {n : Nat} (m : Nat) (x : BitVec n) : 0#m ++ x = x.setWidth (m + n) := by
  apply BitVec.eq_of_toNat_eq
  rw [toNat_append_eq, BitVec.toNat_ofNat, Nat.zero_mod, Nat.mul_zero, Nat.zero_add,
    BitVec.toNat_setWidth_of_le (Nat.le_add_left n m)]

/-! The symbol and group commands. -/

/-- Settles O33: the operand check, then VAL of the byte. -/
theorem sym2valResult : Obligations.Sym2valResult := by
  unfold Obligations.Sym2valResult
  refine ⟨decode_encode .sym2val, fun s => ⟨fun hexceeds => ?_, fun c harg => ?_⟩⟩
  · simp only [exec, execSym2val, (argExceeds_iff (m := 24) rfl s).mpr hexceeds, if_true, complete_eq]
  · have hfits : ¬argExceeds 8 s = true := not_argExceeds (m := 24) rfl (harg ▸ BitVec.extractLsb'_append_eq_left)
    have hbyte : byteOf s.arg 0 = c := harg ▸ BitVec.extractLsb'_append_eq_right
    constructor
    · intro hc
      simp only [exec, execSym2val, if_neg hfits, hbyte, (symVal_eq_none_iff c).mpr hc, complete_eq]
    · rintro v rfl
      simp only [exec, execSym2val, if_neg hfits, hbyte, symVal_symbolOf, zero_append_eq_setWidth, complete_eq]

/-- Settles O34: the operand check, then ALPHA of the value. -/
theorem val2symResult : Obligations.Val2symResult := by
  unfold Obligations.Val2symResult
  refine ⟨decode_encode .val2sym, fun s => ⟨fun hexceeds => ?_, fun v harg => ?_⟩⟩
  · simp only [exec, execVal2sym, (argExceeds_iff (m := 26) rfl s).mpr hexceeds, if_true, complete_eq]
  · have hfits : ¬argExceeds 6 s = true := not_argExceeds (m := 26) rfl (harg ▸ BitVec.extractLsb'_append_eq_left)
    have hvalue : s.arg.extractLsb' 0 6 = v := harg ▸ BitVec.extractLsb'_append_eq_right
    simp only [exec, execVal2sym, if_neg hfits, hvalue, alpha_eq_symbolOf, zero_append_eq_setWidth, complete_eq]

/-- The symbols of the first three bytes of a value are those of its first four sextets (41_codec.md R97). -/
theorem encodeGroup_byteOf {m : Nat} (x : BitVec m) :
    encodeGroup (byteOf x 0) (byteOf x 1) (byteOf x 2) =
      (symbolOf (x.extractLsb' 0 6), symbolOf (x.extractLsb' 6 6), symbolOf (x.extractLsb' 12 6),
        symbolOf (x.extractLsb' 18 6)) := by
  have hword : byteOf x 2 ++ byteOf x 1 ++ byteOf x 0 = x.extractLsb' 0 24 := byteOf_append_three x 0
  have hsextet (i : Nat) (h : i + 6 ≤ 24) : (x.extractLsb' 0 24).extractLsb' i 6 = x.extractLsb' i 6 := by
    rw [extractLsb'_slice x h, Nat.zero_add]
  rw [encodeGroup_eq, hword, hsextet 0 (by decide), hsextet 6 (by decide), hsextet 12 (by decide),
    hsextet 18 (by decide)]

/-- Settles O35: the operand check, then the symbols of the first three bytes. -/
theorem encgrpResult : Obligations.EncgrpResult := by
  unfold Obligations.EncgrpResult
  refine ⟨decode_encode .encgrp, fun s => ⟨fun hexceeds => ?_, fun hzero => ?_⟩⟩
  · simp only [exec, execEncgrp, (argExceeds_iff (m := 8) rfl s).mpr hexceeds, if_true, complete_eq]
  · have hfits : ¬argExceeds 24 s = true := not_argExceeds (m := 8) rfl hzero
    simp only [exec, execEncgrp, if_neg hfits, encodeGroup_byteOf, complete_eq]

/-- A word is its four bytes put together (20_memory.md R46). -/
theorem bytes_append_four (x : Word) : byteOf x 3 ++ byteOf x 2 ++ byteOf x 1 ++ byteOf x 0 = x :=
  (leVec_four _ _ _ _).symm.trans (leVec_leBytes (n := 4) x (Nat.le_refl 32))

/-- The bytes and the sextets of a group's word make up the same 32-bit result (41_codec.md R98). -/
theorem zero_append_groupWord (v0 v1 v2 v3 : Sextet) :
    0x00#8 ++ byteOf (v3 ++ v2 ++ v1 ++ v0) 2 ++ byteOf (v3 ++ v2 ++ v1 ++ v0) 1 ++ byteOf (v3 ++ v2 ++ v1 ++ v0) 0
      = 0#8 ++ v3 ++ v2 ++ v1 ++ v0 := by
  have hword := congrArg BitVec.toNat (bytes_append (v3 ++ v2 ++ v1 ++ v0))
  apply BitVec.eq_of_toNat_eq
  simp only [toNat_append_eq] at hword ⊢
  omega

/-- Settles O36: the bytes of ARG are the symbols of four values, or one is outside the alphabet. -/
theorem decgrpResult : Obligations.DecgrpResult := by
  unfold Obligations.DecgrpResult
  refine ⟨decode_encode .decgrp, fun s => ⟨?_, fun halphabet => ?_⟩⟩
  · rintro ⟨k, hk, hout⟩
    have hnone := decodeGroup_eq_none (s0 := byteOf s.arg 0) (s1 := byteOf s.arg 1) (s2 := byteOf s.arg 2)
      (s3 := byteOf s.arg 3) ⟨byteOf s.arg k, List.mem_map_of_mem (List.mem_range.mpr hk), hout⟩
    simp only [exec, execDecgrp, hnone, complete_eq]
  · have hbytes : ∀ c ∈ leBytes 4 s.arg, c ∈ legacyAlphabet := by
      intro c hc
      obtain ⟨k, hk, rfl⟩ := List.mem_map.mp hc
      exact halphabet k (List.mem_range.mp hk)
    obtain ⟨v0, v1, v2, v3, h0, h1, h2, h3⟩ := exists_group_values hbytes
    refine ⟨v0, v1, v2, v3, ?_, ?_⟩
    · rw [h0, h1, h2, h3, bytes_append_four]
    · simp only [exec, execDecgrp, ← h0, ← h1, ← h2, ← h3, decodeGroup_symbolOf, zero_append_groupWord,
        complete_eq]

/-! The digest commands. -/

/-- The digest in DIGEST is the value whose bytes the buffer holds. -/
theorem digest_eq_of_bytes {s : State} {D : BitVec 128} (h : ∀ j < 16, byteOf D j = s.byteAt (0x050 + j)) :
    s.digest = D := by
  have hbytes : s.bytesAt digestBase 16 = leBytes 16 D :=
    List.map_congr_left fun j hj => (h j (List.mem_range.mp hj)).symm
  rw [State.digest, hbytes, leVec_leBytes D (by decide)]

/-- The fields of State after a command has stored a text and completed (30_encoding.md R65). -/
theorem complete_putText_eq {t : List Byte} {n : Nat} (h : t.length = n) (c : Code) (s : State) :
    complete c (s.putText t) =
      { s with
        mem := s.mem.storeBytes textBase t
        textlen := BitVec.ofNat 8 n
        errcode := c
        phase := .idle
        done := true } := by
  subst h
  rfl

/-- Settles O37: ENC22 of the digest that DIGEST holds, stored as a text. -/
theorem encdigResult : Obligations.EncdigResult := by
  unfold Obligations.EncdigResult
  refine ⟨decode_encode .encdig, fun s D hD =>
    ⟨complete .none (s.putText (enc22 D)), ?_, ?_, ?_, fun a ha => ?_⟩⟩
  · simp only [exec, execEncdig, digest_eq_of_bytes hD]
  · rw [complete_putText_eq (enc22_length D)]
  · have hself := bytesAt_putText_self s (enc22 D)
    rw [enc22_length] at hself
    rw [complete_bytesAt, hself, digestSymbolLayout D]
  · rw [complete_byteAt, byteAt_putText, enc22_length, if_neg (by omega)]

/-- The fields of State after a command has stored a digest with its indication and completed (41_codec.md R100). -/
theorem complete_putDigest_eq (c : Code) (D : BitVec 128) (nc : Bool) (s : State) :
    complete c { s.putDigest D with noncanon := nc } =
      { s with
        mem := s.mem.storeBytes digestBase (leBytes 16 D)
        noncanon := nc
        errcode := c
        phase := .idle
        done := true } := by
  rw [State.putDigest]
  generalize leBytes 16 D = bs
  rfl

/-- The buffers do not depend on NONCANON. -/
theorem byteAt_noncanon (nc : Bool) (s : State) (a : Nat) : { s with noncanon := nc }.byteAt a = s.byteAt a := rfl

theorem bytesAt_noncanon (nc : Bool) (s : State) (a n : Nat) :
    { s with noncanon := nc }.bytesAt a n = s.bytesAt a n := rfl

/-- Settles O38: the length check, then the outcomes of DEC22 on TEXT. -/
theorem decdigResult : Obligations.DecdigResult := by
  unfold Obligations.DecdigResult
  refine ⟨decode_encode .decdig, fun s => ⟨fun hlong => ?_, fun hfits => ?_⟩⟩
  · have hlong : s.textTooLong = true := decide_eq_true hlong
    simp only [exec, execDecdig, if_pos hlong, complete_eq]
  · have hfits : ¬s.textTooLong = true := by
      rw [State.textTooLong, decide_eq_true_iff]
      omega
    refine ⟨fun hout => ?_, fun halphabet hlength => ?_, fun halphabet hlength => ?_⟩
    · have hdec : dec22 s.text = .error .decodeFailure := dec22_of_outside_alphabet hout
      simp only [exec, execDecdig, if_neg hfits, hdec, complete_eq]
    · have hdec : dec22 s.text = .error .malformedDigest := by
        refine dec22_of_length_ne halphabet ?_
        rw [State.text, bytesAt_length]
        exact fun h => hlength (BitVec.eq_of_toNat_eq h)
      simp only [exec, execDecdig, if_neg hfits, hdec, complete_eq]
    · have htext : s.text = s.bytesAt 0x080 22 := by
        rw [State.text, hlength]
        rfl
      obtain ⟨vs, hvs⟩ := exists_values (t := s.text) halphabet
      have hcount : vs.length = 22 := by rw [← List.length_map (f := symbolOf), hvs, htext, bytesAt_length]
      obtain ⟨D, hD⟩ : ∃ D, digestOfValues vs D := ⟨_, (digestOfValues_iff vs _).mpr rfl⟩
      obtain ⟨-, -, hsymbols⟩ := digestDecodeOutcomes s.text
      refine ⟨vs, D, complete .none { s.putDigest D with noncanon := decide (4 ≤ (vs.getD 21 0#6).toNat) },
        htext ▸ hvs.symm, hD, ?_, ?_, ?_, fun a ha => ?_⟩
      · simp only [exec, execDecdig, if_neg hfits, hsymbols vs D hcount hvs.symm hD]
      · rw [complete_putDigest_eq]
      · rw [complete_bytesAt]
        exact (bytesAt_noncanon _ (s.putDigest D) 0x050 16).trans (bytesAt_putDigest_self s D)
      · rw [complete_byteAt]
        exact (byteAt_noncanon _ (s.putDigest D) a).trans (by rw [byteAt_putDigest, if_neg (by omega)])

end Sys2Proof.Machine
end

section
/-! PROOF of O39, O40, O41: the micro-steps of the hash commands (42_checksum.md R106, R107, R110). CHKSUM, GENERATE
and VERIFY share the chain step and differ in their `finish` alone, and what concerns the chain is said of all three. -/

namespace Sys2Proof.Machine

/-- The hash commands, each with its own `finish` (42_checksum.md R107). -/
inductive HashFinish : Instr → (State → State) → Prop where
  | chksum : HashFinish .chksum finishChksum
  | generate : HashFinish .generate finishGenerate
  | verify : HashFinish .verify finishVerify

theorem exists_hashFinish {i : Instr} (h : i = .chksum ∨ i = .generate ∨ i = .verify) :
    ∃ finish, HashFinish i finish := by
  obtain rfl | rfl | rfl := h
  exacts [⟨_, .chksum⟩, ⟨_, .generate⟩, ⟨_, .verify⟩]

namespace HashFinish

variable {i : Instr} {finish : State → State}

theorem isHashCommand (hf : HashFinish i finish) : i = .chksum ∨ i = .generate ∨ i = .verify := by
  cases hf <;> simp

/-- In phase CHAIN a hash command takes the chain step (42_checksum.md R107). -/
theorem exec_of_chain (hf : HashFinish i finish) {s : State} (hp : s.phase = .chain) :
    exec i s = .next (chainStep finish s) := by
  cases hf <;> simp only [exec, execChksum, execGenerate, execVerify, hp]

/-- With ITER 0 the chain step is the command's `finish` (42_checksum.md R107). -/
theorem exec_finish (hf : HashFinish i finish) {s : State} (hp : s.phase = .chain) (hz : s.iter = 0#64) :
    exec i s = .next (finish s) := by
  rw [hf.exec_of_chain hp, chainStep, if_neg (not_not.mpr hz)]

/-- Every `finish` completes the command (40_command_protocol.md R77). -/
theorem phase_eq_idle (hf : HashFinish i finish) (s : State) : (finish s).phase = .idle := by
  cases hf with
  | chksum | generate => rfl
  | verify =>
    rw [finishVerify]
    split <;> rfl

end HashFinish

/-! The SETUP rules. -/

/-- CHKSUM and GENERATE have one SETUP rule (42_checksum.md R110, 44_record.md R135). -/
theorem exec_of_not_chain {s : State} {i : Instr} (hi : i = .chksum ∨ i = .generate) (hp : s.phase ≠ .chain) :
    exec i s = .next (setupChksum s) := by
  cases hphase : s.phase with
  | chain => exact absurd hphase hp
  | idle | setup =>
    obtain rfl | rfl := hi
    · simp only [exec, execChksum, hphase]
    · simp only [exec, execGenerate, hphase, setupGenerate, setupChksum]

theorem execVerify_of_not_chain {s : State} (hp : s.phase ≠ .chain) : exec .verify s = .next (setupVerify s) := by
  cases hphase : s.phase with
  | chain => exact absurd hphase hp
  | idle | setup => simp only [exec, execVerify, hphase]

theorem passwordTooLong_iff (s : State) : s.passwordTooLong = true ↔ s.params.pwBufLen < s.pwlen.toNat :=
  decide_eq_true_iff

theorem textTooLong_iff (s : State) : s.textTooLong = true ↔ s.params.textBufLen < s.textlen.toNat :=
  decide_eq_true_iff

/-- With a password that fits, the SETUP rule of CHKSUM and GENERATE starts the chain (42_checksum.md R106). -/
theorem setupChksum_of_fits {s : State} (h : s.pwlen.toNat ≤ s.params.pwBufLen) :
    setupChksum s = hashStart s.exp s.salt s := by
  rw [setupChksum, if_neg (by rw [passwordTooLong_iff]; omega)]

/-! The operands of the chain. -/

/-- The salt read as a value has the bytes of SALT (42_checksum.md R105). -/
theorem leBytes_salt (s : State) : leBytes 8 s.salt = s.bytesAt 0x040 8 := by
  have hbytes := leBytes_leVec (w := 64) (s.bytesAt saltBase 8) (by rw [bytesAt_length])
  rwa [bytesAt_length] at hbytes

/-- The one-hot load value is a power of two, the largest being 2^63 (42_checksum.md R104). -/
theorem iterLoad_toNat (e : Sextet) : (iterLoad e).toNat = 2 ^ e.toNat := by
  have he : 2 ^ e.toNat < 2 ^ 64 := Nat.pow_lt_pow_right (by decide) e.isLt
  rw [iterLoad, BitVec.toNat_shiftLeft, BitVec.toNat_ofNat, Nat.shiftLeft_eq]
  omega

/-- A counter that is not 0 counts down by one (42_checksum.md R107). -/
theorem toNat_eq_toNat_sub_one_add {n : BitVec 64} (h : n ≠ 0#64) : n.toNat = (n - 1#64).toNat + 1 := by
  bv_omega

/-! What CHKSUM's `finish` leaves. -/

theorem finishChksum_eq (s : State) :
    finishChksum s = { s with mem := (finishChksum s).mem, errcode := .none, phase := .idle, done := true } := by
  rw [finishChksum, State.putDigest]
  generalize leBytes 16 s.h = bs
  rfl

theorem finishChksum_digest (s : State) : (finishChksum s).bytesAt 0x050 16 = leBytes 16 s.h := by
  rw [finishChksum, complete_bytesAt, bytesAt_putDigest_self]

theorem finishChksum_byteAt (s : State) {a : Nat} (h : a < 0x050 ∨ 0x050 + 16 ≤ a) :
    (finishChksum s).byteAt a = s.byteAt a := by
  rw [finishChksum, complete_byteAt, byteAt_putDigest, if_neg (by omega)]

/-! The obligations. -/

/-- Settles O39: the two cases of the length check. -/
theorem hashCommandSetup : Obligations.HashCommandSetup := by
  unfold Obligations.HashCommandSetup
  intro s i hi hp
  rw [exec_of_not_chain hi (by simp [hp])]
  refine ⟨fun hlong => ?_, fun hfits => ?_⟩
  · rw [setupChksum, if_pos ((passwordTooLong_iff s).mpr hlong), complete_eq]
  · have hiter : iterLoad s.exp = BitVec.ofNat 64 (2 ^ s.exp.toNat) := by
      rw [← iterLoad_toNat, BitVec.ofNat_toNat, BitVec.setWidth_eq]
    rw [setupChksum_of_fits hfits, hashStart, leBytes_salt, hiter, State.password]

/-- Settles O40: the chain step with ITER not 0 is the same for every `finish`. -/
theorem hashCommandChainStep : Obligations.HashCommandChainStep := by
  unfold Obligations.HashCommandChainStep
  intro s i hi hp hne
  obtain ⟨finish, hf⟩ := exists_hashFinish hi
  have hiter : BitVec.ofNat 64 (s.iter.toNat - 1) = s.iter - 1#64 := by
    rw [toNat_eq_toNat_sub_one_add hne, Nat.add_sub_cancel, BitVec.ofNat_toNat, BitVec.setWidth_eq]
  rw [hf.exec_of_chain hp, chainStep, if_pos hne, hiter, State.password]

/-- Settles O41: with ITER 0 the chain step is `finish`. -/
theorem chksumFinish : Obligations.ChksumFinish := by
  unfold Obligations.ChksumFinish
  intro s hp hz
  exact ⟨finishChksum s, HashFinish.chksum.exec_finish hp hz, finishChksum_eq s, finishChksum_digest s,
    fun a => finishChksum_byteAt s⟩

end Sys2Proof.Machine
end

section
/-! PROOF of O53: every step keeps the invariant of the hash pipeline. It speaks of phase CHAIN alone: a SETUP rule that
enters the phase establishes it, a chained application uses up one of those to come, and a host reaches none of the
fields it reads while the block is busy (42_checksum.md R107, 40_command_protocol.md R79). -/

namespace Sys2Proof.Machine

section

variable {s t : State}

theorem State.HashInv.of_not_chain (hp : s.phase ≠ .chain) : s.HashInv where
  chained hchain := absurd hchain hp
  bounded hchain := absurd hchain hp
  parsed hchain := absurd hchain hp

/-! The operands of the running hash command (42_checksum.md R106). -/

theorem hashSalt_of_verify (h : s.opl = encode .verify) : s.hashSalt = s.ps := if_pos h

theorem hashSalt_of_ne_verify (h : s.opl ≠ encode .verify) : s.hashSalt = s.salt := if_neg h

theorem hashExp_of_verify (h : s.opl = encode .verify) : s.hashExp = s.pe := if_pos h

theorem hashExp_of_ne_verify (h : s.opl ≠ encode .verify) : s.hashExp = s.exp := if_neg h

/-! The micro-steps. -/

/-- The chain starts at the seed hash with all of its 2^e applications to come (42_checksum.md R101, R106). -/
theorem hashStart_hashInv {e : Sextet} {S : BitVec 64} (hexp : s.hashExp = e) (hsalt : s.hashSalt = S)
    (hparsed : s.opl = encode .verify → s.textTooLong = false
      ∧ parseRec s.text = .ok { exp := s.pe, salt := s.ps, digest := s.pd, nonCanon := s.pnc }) :
    (hashStart e S s).HashInv := by
  subst hexp hsalt
  exact {
    chained := fun _ =>
      congrArg (chainMd5 s.password · (md5 (leBytes 8 s.hashSalt ++ s.password))) (iterLoad_toNat s.hashExp)
    bounded := fun _ => (iterLoad_toNat s.hashExp).le
    parsed := fun _ => hparsed }

theorem setupChksum_hashInv (hopl : s.opl ≠ encode .verify) : (setupChksum s).HashInv := by
  unfold setupChksum
  split
  · exact .of_idle rfl
  · exact hashStart_hashInv (hashExp_of_ne_verify hopl) (hashSalt_of_ne_verify hopl) fun h => absurd h hopl

theorem setupVerify_hashInv (hopl : s.opl = encode .verify) : (setupVerify s).HashInv := by
  unfold setupVerify
  split
  · exact .of_idle rfl
  · rename_i hlen
    obtain ⟨htext, -⟩ := Bool.or_eq_false_iff.mp (Bool.eq_false_iff.mpr hlen)
    split
    · exact .of_idle rfl
    · rename_i r hr
      exact hashStart_hashInv (s := { s with pe := r.exp, ps := r.salt, pd := r.digest, pnc := r.nonCanon })
        (hashExp_of_verify hopl) (hashSalt_of_verify hopl) fun _ => ⟨htext, hr⟩

/-- A chained application is one of those that were to come (42_checksum.md R107). -/
theorem chainStep_hashInv (h : s.HashInv) {finish : State → State} (hfinish : (finish s).phase = .idle) :
    (chainStep finish s).HashInv := by
  obtain ⟨hne, heq⟩ | ⟨-, heq⟩ := chainStep_cases finish s
  · have hiter := toNat_eq_toNat_sub_one_add hne
    rw [heq]
    refine ⟨fun hp => ?chained, fun hp => ?bounded, h.parsed⟩
    case chained =>
      have hchained := h.chained hp
      rwa [hiter] at hchained
    case bounded =>
      have hbounded := h.bounded hp
      rw [hiter] at hbounded
      exact (Nat.le_succ _).trans hbounded
  · rw [heq]
    exact .of_idle hfinish

/-- A command that is no hash command ends in its one micro-step (40_command_protocol.md R76). -/
theorem exec_phase_of_not_hash {i : Instr} (hi : ¬(i = .chksum ∨ i = .generate ∨ i = .verify))
    (hexec : exec i s = .next t) : t.phase = .idle := by
  cases i with
  | chksum | generate | verify => simp at hi
  | encdig | format =>
    cases hexec
    rfl
  | val2sym | encgrp | decgrp =>
    cases hexec
    split <;> rfl
  | sym2val | decdig | parse =>
    cases hexec
    split
    · rfl
    · split <;> rfl

/-- The micro-step of the command in OPL keeps the invariant (40_command_protocol.md R76, 42_checksum.md R107). -/
theorem exec_hashInv (h : s.HashInv) {i : Instr} (hd : decode s.opl = .ok i) (hexec : exec i s = .next t) :
    t.HashInv := by
  have hopl := word_of_decode hd
  by_cases hi : i = .chksum ∨ i = .generate ∨ i = .verify
  · by_cases hp : s.phase = .chain
    · obtain ⟨finish, hf⟩ := exists_hashFinish hi
      cases (hf.exec_of_chain hp).symm.trans hexec
      exact chainStep_hashInv h (hf.phase_eq_idle s)
    · obtain rfl | rfl | rfl := hi
      · cases (exec_of_not_chain (.inl rfl) hp).symm.trans hexec
        exact setupChksum_hashInv (by rw [hopl]; decide)
      · cases (exec_of_not_chain (.inr rfl) hp).symm.trans hexec
        exact setupChksum_hashInv (by rw [hopl]; decide)
      · cases (execVerify_of_not_chain hp).symm.trans hexec
        exact setupVerify_hashInv hopl
  · exact .of_idle (exec_phase_of_not_hash hi hexec)

/-! Transactions. -/

/-- While idle a write can start a command but no chain (40_command_protocol.md R73). -/
theorem writeTarget_phase_of_idle (hp : s.phase = .idle) (v : Word) (g : Target) :
    (writeTarget v s g).phase ≠ .chain := by
  cases g with
  | id | params | result | iterLo | iterHi => simp [writeTarget, hp]
  | arg | exp | pwlen | textlen | cells => simp [writeTarget, writeOperand_of_idle hp, hp]
  | status => simp [writeTarget, writeStatus_eq, hp]
  | ctrl => simp [writeTarget, writeCtrl_of_no_abort (.inl hp), hp]
  | cmd => obtain ⟨-, heq⟩ | ⟨-, heq⟩ := writeCmd_cases v s <;> simp [writeTarget, heq, hp]

theorem transact_phase_of_idle (hp : s.phase = .idle) (x : Txn) : (transact x s).phase ≠ .chain := by
  obtain ⟨-, heq⟩ | ⟨g, -, -, heq⟩ | ⟨g, v, -, -, heq⟩ := transact_cases x s
  all_goals rw [heq]
  · simp [hp]
  · simp [hp]
  · exact writeTarget_phase_of_idle hp v g

/-- While busy a transaction aborts the command or changes nothing the invariant reads (40_command_protocol.md R79,
R80). -/
theorem transact_hashInv (h : s.HashInv) (x : Txn) : (transact x s).HashInv := by
  cases hb : s.busy with
  | false => exact .of_not_chain (transact_phase_of_idle ((not_busy_iff s).mp hb) x)
  | true =>
    obtain ⟨w, -, -, -, heq⟩ | ⟨e, d, c, i, p, heq⟩ := transact_of_busy_cases hb x
    · rw [heq]
      exact .of_idle rfl
    · rw [heq]
      exact { h with }

/-! The turns. -/

theorem sequencerTurn_hashInv (h : s.HashInv) (hturn : sequencerTurn s = .next t) : t.HashInv := by
  obtain ⟨-, heq⟩ | ⟨-, -, -, heq⟩ | ⟨-, -, i, hd, heq⟩ | ⟨-, -, i, -, hd, heq⟩ | ⟨-, -, heq⟩ := sequencerTurn_cases s
  · cases heq.symm.trans hturn
    exact h
  · cases heq.symm.trans hturn
    exact .of_idle rfl
  · exact exec_hashInv h hd (heq.symm.trans hturn)
  · exact exec_hashInv h hd (heq.symm.trans hturn)
  · cases heq.symm.trans hturn

theorem hostTurn_hashInv (h : s.HashInv) (hturn : hostTurn s = .next t) : t.HashInv := by
  obtain ⟨-, heq⟩ | ⟨line, -, heq⟩ := hostTurn_cases s
  · cases heq.symm.trans hturn
    exact h
  · rw [heq] at hturn
    obtain ⟨a, hline⟩ | ⟨x, a, hline⟩ | ⟨n, hline⟩ | ⟨l, hline⟩ := hostLine_cases line s
    all_goals cases hline.symm.trans hturn
    · exact { h with }
    · have htransact := transact_hashInv h x
      exact { htransact with }

theorem takeTurn_hashInv (h : s.HashInv) {a : Turn} (hturn : takeTurn a s = .next t) : t.HashInv := by
  cases a with
  | bus x =>
    cases hturn
    exact transact_hashInv h x
  | host => exact hostTurn_hashInv h hturn
  | sequencer => exact sequencerTurn_hashInv h hturn
  | assertReset =>
    cases hturn
    exact { h with }
  | releaseReset =>
    cases hturn
    split
    · exact .of_idle rfl
    · exact h

end

/-- Settles O53, by the agent whose turn the step takes. -/
theorem stepKeepsHashInv : Obligations.StepKeepsHashInv := by
  unfold Obligations.StepKeepsHashInv
  intro s t h hstep
  obtain ⟨a, rest, -, heq⟩ | ⟨-, -, -, heq⟩ | ⟨-, -, heq⟩ := step_cases s
  all_goals rw [heq] at hstep
  · have hrest : State.HashInv { s with inputs := rest } := { h with }
    exact takeTurn_hashInv hrest hstep
  · exact sequencerTurn_hashInv h hstep
  · exact hostTurn_hashInv h hstep

end Sys2Proof.Machine
end

section
/-! PROOF of O55: what the finishing micro-steps deliver. GENERATE's record is the text of its fields, a text parses
exactly when it is the text of a record, and under the invariant H is the checksum at ITER 0 (42_checksum.md R112). -/

namespace Sys2Proof.Machine

/-! The text of a record. -/

/-- The serializer writes the identifier, the symbol of the exponent, the salt bytes and the digest symbols
(44_record.md R134). -/
theorem formatRec_eq (e : Sextet) (S : BitVec 64) (D : BitVec 128) :
    formatRec e S D = [0x24#8, 0x50#8, 0x24#8, symbolOf e] ++ leBytes 8 S ++ symbolsOfDigest D := by
  rw [formatRec, alpha_eq_symbolOf, digestSymbolLayout D]
  rfl

/-- The parts of a record text, where the parser looks for them (30_encoding.md R70). -/
theorem recordText_parts {S : List Byte} (hS : S.length = 8) (e : Sextet) (vs : List Sextet) :
    (recordText e S vs).length = 12 + vs.length ∧ (recordText e S vs).take 3 = recordIdentifier
      ∧ (recordText e S vs).getD 3 0x00#8 = symbolOf e ∧ ((recordText e S vs).drop 4).take 8 = S
      ∧ (recordText e S vs).drop 12 = vs.map symbolOf := by
  have hhead : ([0x24#8, 0x50#8, 0x24#8, symbolOf e] ++ S).length = 12 := by simp [hS]
  refine ⟨?length, rfl, rfl, List.take_left' hS, List.drop_left' hhead⟩
  case length => rw [recordText, List.length_append, hhead, List.length_map]

/-- A record text parses to its fields (44_record.md R128). -/
theorem parseRec_recordText {S : List Byte} {vs : List Sextet} {D : BitVec 128} (hS : S.length = 8)
    (hvs : vs.length = 22) (hD : digestOfValues vs D) (e : Sextet) :
    parseRec (recordText e S vs)
      = .ok { exp := e, salt := leVec 64 S, digest := D, nonCanon := decide (4 ≤ (vs.getD 21 0#6).toNat) } := by
  obtain ⟨hlength, hident, hexp, hsalt, hdigest⟩ := recordText_parts hS e vs
  rw [parseRec, if_neg (by omega), if_neg (not_not.mpr hident), hexp, symVal_symbolOf, hdigest, dec22_symbols hvs,
    ← (digestOfValues_iff vs D).mp hD, hsalt]

/-- A text of at least 12 bytes is its parts put together. -/
theorem text_eq_parts {t : List Byte} (h : 12 ≤ t.length) :
    t = t.take 3 ++ [t.getD 3 0x00#8] ++ (t.drop 4).take 8 ++ t.drop 12 := by
  have hhead : t.take 3 ++ [t.getD 3 0x00#8] = t.take 4 := by
    rw [List.getD_eq_getElem _ _ (by omega), List.take_append_getElem (by omega)]
  rw [hhead, ← List.take_add, List.take_append_drop]

/-- Nothing but a record text parses (44_record.md R131). -/
theorem exists_recordText_of_parseRec {t : List Byte} {r : Record} (h : parseRec t = .ok r) :
    ∃ S vs, t = recordText r.exp S vs ∧ S.length = 8 ∧ vs.length = 22 ∧ r.salt = leVec 64 S
      ∧ digestOfValues vs r.digest := by
  obtain ⟨-, h'⟩ | ⟨-, -, h'⟩ | ⟨-, -, -, h'⟩ | ⟨-, -, _, _, -, -, h'⟩ | ⟨hlength, hident, e, d, nc, he, hd, h'⟩ :=
    parseRec_cases t
  case inr.inr.inr.inr =>
    cases h'.symm.trans h
    obtain ⟨vs, hvs, hsymbols⟩ := symbols_of_dec22 hd
    refine ⟨(t.drop 4).take 8, vs, ?text, ?salt, hvs, rfl, ?digest⟩
    case text =>
      rw [recordText, (symVal_eq_some_iff _ e).mp he, hsymbols]
      refine (text_eq_parts (t := t) (by omega)).trans ?_
      rw [hident]
      rfl
    case salt => rw [List.length_take_of_le (by rw [List.length_drop]; omega)]
    case digest =>
      rw [← hsymbols, dec22_symbols hvs] at hd
      cases hd
      exact (digestOfValues_iff vs _).mpr rfl
  all_goals cases h'.symm.trans h

/-! What the `finish` of GENERATE and of VERIFY leaves. -/

/-- Reading below a text just written. -/
theorem bytesAt_putText_below (s : State) (t : List Byte) {b n : Nat} (h : b + n ≤ 0x080) :
    (s.putText t).bytesAt b n = s.bytesAt b n := by
  rw [bytesAt_congr (s := s.putBytes textBase t) (putText_mem t s) (putText_epoch t s)]
  exact bytesAt_putBytes_disjoint s textBase b n t (.inl h)

theorem finishGenerate_eq (s : State) :
    finishGenerate s =
      { s with
        mem := (finishGenerate s).mem
        textlen := 34#8
        errcode := .none
        phase := .idle
        done := true } := by
  rw [finishGenerate, complete_putText_eq (formatRec_length _ _ _), State.putDigest]
  generalize leBytes 16 s.h = bs, formatRec s.exp s.salt s.h = t
  rfl

theorem finishGenerate_digest (s : State) : (finishGenerate s).bytesAt 0x050 16 = leBytes 16 s.h := by
  rw [finishGenerate, complete_bytesAt, bytesAt_putText_below _ _ (by decide), bytesAt_putDigest_self]

theorem finishGenerate_text (s : State) :
    (finishGenerate s).bytesAt 0x080 34 =
      [0x24#8, 0x50#8, 0x24#8, symbolOf s.exp] ++ s.bytesAt 0x040 8 ++ symbolsOfDigest s.h := by
  have hself := bytesAt_putText_self (s.putDigest s.h) (formatRec s.exp s.salt s.h)
  rw [formatRec_length] at hself
  rw [finishGenerate, complete_bytesAt, hself, formatRec_eq, leBytes_salt]

theorem finishGenerate_byteAt (s : State) {a : Nat} (h : a < 0x050 ∨ (0x050 + 16 ≤ a ∧ a < 0x080) ∨ 0x080 + 34 ≤ a) :
    (finishGenerate s).byteAt a = s.byteAt a := by
  rw [finishGenerate, complete_byteAt, byteAt_putText, formatRec_length, if_neg (by omega), byteAt_putDigest,
    if_neg (by omega)]

/-- VERIFY commits MATCH and NONCANON in both cases of its comparison (44_record.md R136, R137). -/
theorem finishVerify_eq (s : State) :
    finishVerify s =
      { s with
        noncanon := s.pnc
        verMatch := decide (s.h = s.pd)
        errcode := if s.h = s.pd then .none else .verificationFailure
        phase := .idle
        done := true } := by
  rw [finishVerify]
  by_cases h : s.h = s.pd <;> simp [h, complete_eq]

theorem finishVerify_verMatch (s : State) : (finishVerify s).verMatch = decide (s.h = s.pd) := by
  rw [finishVerify_eq]

theorem finishVerify_errcode (s : State) :
    (finishVerify s).errcode = if s.h = s.pd then .none else .verificationFailure := by
  rw [finishVerify_eq]

/-! The finishing micro-step. -/

/-- With no application to come, H is the checksum (42_checksum.md R101, R112). -/
theorem State.HashInv.h_eq_checksum {s : State} (h : s.HashInv) (hp : s.phase = .chain) (hz : s.iter = 0#64) :
    s.h = checksum s.password s.hashSalt s.hashExp := by
  have hchained := h.chained hp
  rwa [hz] at hchained

/-- The sequencer's turn in phase CHAIN with ITER 0. -/
theorem HashFinish.step_finish {i : Instr} {finish : State → State} (hf : HashFinish i finish) {s : State}
    {rest : List Turn} (hr : s.inReset = false) (hp : s.phase = .chain) (hz : s.iter = 0#64)
    (hi : s.inputs = .sequencer :: rest) (hopl : s.opl = encode i) :
    step s = .next (finish { s with inputs := rest }) := by
  obtain ⟨-, hgiven⟩ := stepRunsDecodedCommand s i hr (hopl ▸ decode_encode i) (.inr ⟨hp, hf.isHashCommand⟩)
  exact (hgiven rest hi).trans (hf.exec_finish (s := { s with inputs := rest }) hp hz)

/-- Settles O55, by the `finish` of each command with H the checksum of its operands. -/
theorem chainResultUnderInterleaving : Obligations.ChainResultUnderInterleaving := by
  unfold Obligations.ChainResultUnderInterleaving
  intro s rest hinv hr hp hz hi
  have hsum := hinv.h_eq_checksum hp hz
  have hoperands (hopl : s.opl ≠ encode .verify) : s.h = checksum s.password s.salt s.exp := by
    rwa [hashSalt_of_ne_verify hopl, hashExp_of_ne_verify hopl] at hsum
  refine ⟨fun hopl => ?chksum, fun hopl => ?generate, fun hopl => ?verify⟩
  case chksum =>
    rw [← hoperands (by rw [hopl]; decide)]
    exact ⟨_, HashFinish.chksum.step_finish hr hp hz hi hopl, rfl, rfl, finishChksum_digest { s with inputs := rest }⟩
  case generate =>
    rw [← hoperands (by rw [hopl]; decide)]
    exact ⟨_, HashFinish.generate.step_finish hr hp hz hi hopl, rfl, rfl,
      finishGenerate_digest { s with inputs := rest }, finishGenerate_text { s with inputs := rest }⟩
  case verify =>
    obtain ⟨-, hparsed⟩ := hinv.parsed hp hopl
    obtain ⟨S, vs, htext, hS, hvs, hsalt, hD⟩ := exists_recordText_of_parseRec hparsed
    have hps : s.hashSalt = leVec 64 S := (hashSalt_of_verify hopl).trans hsalt
    rw [hps, hashExp_of_verify hopl] at hsum
    refine ⟨finishVerify { s with inputs := rest }, s.pe, S, vs, s.pd, htext, hS, hvs, hD,
      HashFinish.verify.step_finish hr hp hz hi hopl, HashFinish.verify.phase_eq_idle _, ?_, ?_⟩
    · rw [finishVerify_verMatch, ← hsum]
    · rw [finishVerify_errcode, ← hsum]

end Sys2Proof.Machine
end

section
/-! PROOF of O47, O48, O49: the hash commands as runs. Left alone, a command takes its SETUP micro-step, 2^e chained
applications and its `finish` (42_checksum.md R107); the run is followed once for the three commands. -/

namespace Sys2Proof.Machine

/-! The chain. -/

/-- The state after n chained applications (42_checksum.md R107). -/
def State.chainedBy (n : Nat) (s : State) : State :=
  { s with iter := s.iter - BitVec.ofNat 64 n, h := chainMd5 s.password n s.h }

@[simp] theorem chainedBy_zero (s : State) : s.chainedBy 0 = s := by
  rw [State.chainedBy, BitVec.sub_zero, chainMd5]

theorem chainedBy_one (s : State) :
    s.chainedBy 1 = { s with h := md5 (leBytes 16 s.h ++ s.password), iter := s.iter - 1#64 } := rfl

theorem chainedBy_one_chainedBy (n : Nat) (s : State) : (s.chainedBy 1).chainedBy n = s.chainedBy (n + 1) := by
  have hiter : s.iter - 1#64 - BitVec.ofNat 64 n = s.iter - BitVec.ofNat 64 (n + 1) := by
    rw [BitVec.sub_sub, BitVec.add_comm, BitVec.ofNat_add]
  rw [chainedBy_one, State.chainedBy, hiter]
  rfl

namespace HashFinish

variable {i : Instr} {finish : State → State}

/-- Left alone in phase CHAIN, a hash command takes its micro-step (42_checksum.md R107). -/
theorem step_alone_chain (hf : HashFinish i finish) {s : State} (hr : s.inReset = false) (hi : s.inputs = [])
    (hp : s.phase = .chain) (hopl : s.opl = encode i) : step s = exec i s := by
  obtain ⟨halone, -⟩ := stepRunsDecodedCommand s i hr (hopl ▸ decode_encode i) (.inr ⟨hp, hf.isHashCommand⟩)
  exact halone hi

theorem step_alone_finish (hf : HashFinish i finish) {s : State} (hr : s.inReset = false) (hi : s.inputs = [])
    (hp : s.phase = .chain) (hopl : s.opl = encode i) (hz : s.iter = 0#64) : step s = .next (finish s) :=
  (hf.step_alone_chain hr hi hp hopl).trans (hf.exec_finish hp hz)

/-- As long as ITER lasts, each step is a chained application. -/
theorem run_chain (hf : HashFinish i finish) {s : State} (hr : s.inReset = false) (hi : s.inputs = [])
    (hp : s.phase = .chain) (hopl : s.opl = encode i) {n : Nat} (hn : n ≤ s.iter.toNat) :
    run n s = .next (s.chainedBy n) := by
  induction n generalizing s with
  | zero => rw [run_zero, chainedBy_zero]
  | succ n ih =>
    have hne : s.iter ≠ 0#64 := by
      rintro hz
      simp [hz] at hn
    have hiter := toNat_eq_toNat_sub_one_add hne
    have hstep : step s = .next (s.chainedBy 1) := by
      rw [hf.step_alone_chain hr hi hp hopl, hf.exec_of_chain hp, chainStep, if_pos hne, chainedBy_one]
    have hrest : n ≤ (s.chainedBy 1).iter.toNat := Nat.le_of_succ_le_succ (hn.trans hiter.le)
    rw [run_succ n hstep, ih (s := s.chainedBy 1) hr hi hp hopl hrest, chainedBy_one_chainedBy]

/-- All of ITER's applications, and then `finish`. -/
theorem run_chain_finish (hf : HashFinish i finish) {s : State} (hr : s.inReset = false) (hi : s.inputs = [])
    (hp : s.phase = .chain) (hopl : s.opl = encode i) :
    run (s.iter.toNat + 1) s
      = .next (finish { s with iter := 0#64, h := chainMd5 s.password s.iter.toNat s.h }) := by
  have hlast : s.chainedBy s.iter.toNat = { s with iter := 0#64, h := chainMd5 s.password s.iter.toNat s.h } := by
    rw [State.chainedBy, BitVec.ofNat_toNat, BitVec.setWidth_eq, BitVec.sub_self]
  rw [run_add _ 1 (hf.run_chain hr hi hp hopl (Nat.le_refl _)), hlast]
  exact run_one (hf.step_alone_finish hr hi hp hopl rfl)

/-! Whole commands. -/

/-- The run of a hash command whose SETUP micro-step starts the chain from u: it is busy and writes no buffer before
step 2^e + 2, in which `finish` finds the checksum in H (42_checksum.md R101, R107). -/
theorem run_command (hf : HashFinish i finish) {s u : State} {e : Sextet} {S : BitVec 64} (hb : s.busy = true)
    (hstart : step s = .next (hashStart e S u)) (hmem : s.mem = u.mem) (hr : u.inReset = false) (hi : u.inputs = [])
    (hopl : u.opl = encode i) :
    (∀ n < 2 ^ e.toNat + 2, ∃ v, run n s = .next v ∧ v.busy = true ∧ v.mem = s.mem)
      ∧ run (2 ^ e.toNat + 2) s
          = .next (finish { u with iter := 0#64, h := checksum u.password S e, phase := .chain }) := by
  have hiter : (hashStart e S u).iter.toNat = 2 ^ e.toNat := iterLoad_toNat e
  refine ⟨fun n hn => ?busy, ?finish⟩
  case busy =>
    cases n with
    | zero => exact ⟨s, rfl, hb, rfl⟩
    | succ n =>
      have hleft : n ≤ (hashStart e S u).iter.toNat := by omega
      have hchain := hf.run_chain (s := hashStart e S u) hr hi rfl hopl hleft
      exact ⟨_, (run_succ n hstart).trans hchain, rfl, hmem.symm⟩
  case finish =>
    have hrun := hf.run_chain_finish (s := hashStart e S u) hr hi rfl hopl
    rw [hiter] at hrun
    exact (run_succ _ hstart).trans hrun

end HashFinish

/-- Left alone in phase SETUP, CHKSUM and GENERATE start the chain from their operands (42_checksum.md R106). -/
theorem step_alone_setup {s : State} {i : Instr} (hi : i = .chksum ∨ i = .generate) (hr : s.inReset = false)
    (hin : s.inputs = []) (hp : s.phase = .setup) (hopl : s.opl = encode i)
    (hfits : s.pwlen.toNat ≤ s.params.pwBufLen) : step s = .next (hashStart s.exp s.salt s) := by
  obtain ⟨halone, -⟩ := stepRunsDecodedCommand s i hr (hopl ▸ decode_encode i) (.inl hp)
  rw [halone hin, exec_of_not_chain hi (by simp [hp]), setupChksum_of_fits hfits]

/-- With a record text and a password that fit, VERIFY's SETUP rule latches the record and starts its chain
(44_record.md R136). -/
theorem setupVerify_of_record {s : State} {r : Record} (htext : s.textlen.toNat ≤ s.params.textBufLen)
    (hpw : s.pwlen.toNat ≤ s.params.pwBufLen) (hr : parseRec s.text = .ok r) :
    setupVerify s
      = hashStart r.exp r.salt { s with pe := r.exp, ps := r.salt, pd := r.digest, pnc := r.nonCanon } := by
  have hfits : ¬(s.textTooLong || s.passwordTooLong) = true := by
    rw [Bool.or_eq_true, textTooLong_iff, passwordTooLong_iff]
    omega
  rw [setupVerify, if_neg hfits, hr]

/-- Settles O47: the run that ends with CHKSUM's `finish`. -/
theorem chksumRun : Obligations.ChksumRun := by
  unfold Obligations.ChksumRun
  intro s hr hin hp hopl hfits
  have hstart := step_alone_setup (.inl rfl) hr hin hp hopl hfits
  obtain ⟨hbusy, hrun⟩ := HashFinish.chksum.run_command (busy_of_phase hp nofun) hstart rfl hr hin hopl
  refine ⟨hbusy, _, hrun, ?_, finishChksum_digest _, fun a => finishChksum_byteAt _⟩
  rw [finishChksum_eq]

/-- Settles O48: the run that ends with GENERATE's `finish`. -/
theorem generateRun : Obligations.GenerateRun := by
  unfold Obligations.GenerateRun
  intro s hr hin hp hopl hfits
  have hstart := step_alone_setup (.inr rfl) hr hin hp hopl hfits
  obtain ⟨hbusy, hrun⟩ := HashFinish.generate.run_command (busy_of_phase hp nofun) hstart rfl hr hin hopl
  refine ⟨hbusy, _, hrun, ?_, finishGenerate_digest _, finishGenerate_text _, fun a => finishGenerate_byteAt _⟩
  rw [finishGenerate_eq]

/-- Settles O49: the run that ends with VERIFY's comparison. -/
theorem verifyRun : Obligations.VerifyRun := by
  unfold Obligations.VerifyRun
  intro s e S vs D hr hin hp hopl htext hpw hS hvs hrecord hD
  have hparsed := parseRec_recordText hS hvs hD e
  rw [← hrecord] at hparsed
  obtain ⟨halone, -⟩ := stepRunsDecodedCommand s .verify hr (hopl ▸ decode_encode .verify) (.inl hp)
  have hstart := halone hin
  rw [execVerify_of_not_chain (by simp [hp]), setupVerify_of_record htext hpw hparsed] at hstart
  obtain ⟨hbusy, hrun⟩ := HashFinish.verify.run_command (busy_of_phase hp nofun) hstart rfl hr hin hopl
  refine ⟨fun n hn => ?busy, ?finish⟩
  case busy =>
    obtain ⟨u, hu, hb, -⟩ := hbusy n hn
    exact ⟨u, hu, hb⟩
  case finish =>
    rw [hrun, finishVerify_eq]
    rfl

end Sys2Proof.Machine
end

section
/-! PROOF of O30, O31: MD5 on its own (43_md5_core.md). The padding is read off its three parts after the message, of
which the zeros fill up the last block; the known answers are evaluated. -/

namespace Sys2Proof.Machine

/-- A padded message: after the message 0x80, then as many zeros as leave room for the length field in the last block
(43_md5_core.md R122). -/
theorem md5Pad_eq (m : List Byte) :
    ∃ z, md5Pad m = m ++ 0x80#8 :: (List.replicate z 0x00#8 ++ leBytes 8 (BitVec.ofNat 64 (8 * m.length)))
      ∧ m.length + 1 + z + 8 = 64 * md5Blocks m.length := by
  refine ⟨(55 + 64 - m.length % 64) % 64, by simp [md5Pad], ?_⟩
  rw [md5Blocks]
  omega

/-- A padded message is a whole number of blocks (43_md5_core.md R122). -/
theorem md5Pad_length (m : List Byte) : (md5Pad m).length = 64 * md5Blocks m.length := by
  obtain ⟨z, hpad, hfill⟩ := md5Pad_eq m
  simp only [hpad, List.length_append, List.length_cons, List.length_replicate, leBytes_length]
  omega

/-- Between the 0x80 and the length field the padding is zero (43_md5_core.md R122). -/
theorem md5Pad_getElem?_zero {m : List Byte} {k : Nat} (hlo : m.length < k) (hhi : k + 8 < (md5Pad m).length) :
    (md5Pad m)[k]? = some 0x00#8 := by
  obtain ⟨z, hpad, hfill⟩ := md5Pad_eq m
  rw [md5Pad_length] at hhi
  obtain ⟨j, rfl⟩ := Nat.exists_eq_add_of_lt hlo
  have hj : j < z := by omega
  rw [hpad, Nat.add_assoc, List.getElem?_append_right (Nat.le_add_right ..), Nat.add_sub_cancel_left,
    List.getElem?_cons_succ, List.getElem?_append_left (by simpa using hj), List.getElem?_replicate, if_pos hj]

/-- The last eight bytes of a padded message are its length field (43_md5_core.md R122). -/
theorem md5Pad_drop_lengthField (m : List Byte) :
    (md5Pad m).drop ((md5Pad m).length - 8) = leBytes 8 (BitVec.ofNat 64 (8 * m.length)) := by
  obtain ⟨z, hpad, hfill⟩ := md5Pad_eq m
  rw [md5Pad_length, hpad, ← List.cons_append, ← List.append_assoc]
  apply List.drop_left'
  simp only [List.length_append, List.length_cons, List.length_replicate]
  omega

/-- Settles O30: the parts of the padded message, by their positions. -/
theorem paddedMessage : Obligations.PaddedMessage := by
  unfold Obligations.PaddedMessage
  intro m
  obtain ⟨z, hpad, -⟩ := md5Pad_eq m
  refine ⟨md5Pad_length m, ?message, ?marker, fun k => md5Pad_getElem?_zero, ?lengthField⟩
  case message => rw [hpad, List.take_left]
  case marker => rw [hpad, List.getElem?_append_right le_rfl, Nat.sub_self, List.getElem?_cons_zero]
  case lengthField =>
    rw [md5Pad_drop_lengthField, leNat_leBytes, BitVec.toNat_ofNat, Nat.mod_mod]

/-- Settles O31, by running the model on the three messages, one block each. -/
theorem md5KnownAnswers : Obligations.Md5KnownAnswers := by
  unfold Obligations.Md5KnownAnswers
  refine ⟨?empty, ?abc, ?messageDigest⟩
  case empty => decide +kernel
  case abc => decide +kernel
  case messageDigest => decide +kernel

end Sys2Proof.Machine
end

section
/-! PROOF of O29, O32: records and the chain as pure functions. Serializer and parser meet in the record text
(30_encoding.md R70), where a digest has one canonical list of values; the chain of 2^(e+1) applications is the chain of
2^e twice (42_checksum.md R101). -/

namespace Sys2Proof.Machine

/-! Records and their texts. -/

/-- The serializer writes the record text of the digest's own values (44_record.md R134). -/
theorem formatRec_eq_recordText (e : Sextet) (S : BitVec 64) (D : BitVec 128) :
    formatRec e S D = recordText e (leBytes 8 S) (digestValues D) := by
  rw [formatRec, alpha_eq_symbolOf, enc22_eq_symbols]
  rfl

/-- Value 21 carries digest bits [131:126], and bits [131:128] are past the end of the digest (41_codec.md R92). -/
theorem digestValues_canonical (D : BitVec 128) : ¬4 ≤ ((digestValues D).getD 21 0#6).toNat := by
  rw [← discardedBits_iff, fieldValue_digestValues]
  omega

theorem digestOfValues_digestValues (D : BitVec 128) : digestOfValues (digestValues D) D := by
  rw [digestOfValues_iff, fieldValue_digestValues, BitVec.ofNat_toNat, BitVec.setWidth_eq]

/-- A canonical list of values is that of the digest it carries (41_codec.md R93). -/
theorem digestValues_eq_of_canonical {vs : List Sextet} {D : BitVec 128} (hvs : vs.length = 22)
    (hD : digestOfValues vs D) (hcanonical : ¬4 ≤ (vs.getD 21 0#6).toNat) : digestValues D = vs := by
  refine digestValues_eq hvs ((dec22_canonical_iff hvs D).mp ?_)
  rw [dec22_symbols hvs, ← (digestOfValues_iff vs D).mp hD, decide_eq_false hcanonical]

/-- A serialized record parses to its fields (44_record.md R138). -/
theorem parseRec_formatRec (e : Sextet) (S : BitVec 64) (D : BitVec 128) :
    parseRec (formatRec e S D) = .ok { exp := e, salt := S, digest := D, nonCanon := false } := by
  rw [formatRec_eq_recordText,
    parseRec_recordText (leBytes_length 8 S) (digestValues_length D) (digestOfValues_digestValues D),
    leVec_leBytes S (by decide), decide_eq_false (digestValues_canonical D)]

/-- The salt bytes of a record are read back from its salt. -/
theorem leBytes_leVec_salt {S : List Byte} (hS : S.length = 8) : leBytes 8 (leVec 64 S) = S := by
  have hbytes := leBytes_leVec (w := 64) S (by rw [hS])
  rwa [hS] at hbytes

/-- A canonical record serializes to the text it was parsed from (44_record.md R138). -/
theorem formatRec_of_parseRec {t : List Byte} {r : Record} (h : parseRec t = .ok r) (hcanonical : r.nonCanon = false) :
    formatRec r.exp r.salt r.digest = t := by
  obtain ⟨S, vs, rfl, hS, hvs, hsalt, hD⟩ := exists_recordText_of_parseRec h
  have hr := Except.ok.inj ((parseRec_recordText hS hvs hD r.exp).symm.trans h)
  rw [← hr, decide_eq_false_iff_not] at hcanonical
  rw [formatRec_eq_recordText, hsalt, leBytes_leVec_salt hS, digestValues_eq_of_canonical hvs hD hcanonical]

/-- Settles O29: parser and serializer undo each other on canonical records. -/
theorem recordRoundTrip : Obligations.RecordRoundTrip := by
  unfold Obligations.RecordRoundTrip
  exact ⟨parseRec_formatRec, fun _ _ => formatRec_of_parseRec⟩

/-! The chain. -/

/-- m + n chained applications are m and then n (42_checksum.md R101). -/
theorem chainMd5_add (P : List Byte) (m n : Nat) (h : BitVec 128) :
    chainMd5 P (m + n) h = chainMd5 P n (chainMd5 P m h) := by
  induction m generalizing h with
  | zero => rw [Nat.zero_add, chainMd5]
  | succ m ih => rw [Nat.succ_add, chainMd5, ih, chainMd5]

/-- Settles O32: 2^(e+1) applications are 2^e and 2^e more. -/
theorem exponentIncrementDoublesChain : Obligations.ExponentIncrementDoublesChain := by
  unfold Obligations.ExponentIncrementDoublesChain
  refine fun P S e he => ⟨?double, rfl⟩
  case double =>
    have hexp : (e + 1#6).toNat = e.toNat + 1 := by bv_omega
    have hcount : 2 ^ (e.toNat + 1) = 2 ^ e.toNat + 2 ^ e.toNat := by rw [Nat.pow_succ, Nat.mul_two]
    rw [checksum, hexp, hcount, chainMd5_add]
    rfl

end Sys2Proof.Machine
end

section
/-! PROOF of O42 to O46, O58: the micro-steps of the record commands (44_record.md R133 to R136, R141). A text fails to
parse with the code of its outcome class (R131, R132) and is a record text otherwise; each command is read off that. -/

namespace Sys2Proof.Machine

/-! The outcome classes of a text. -/

/-- A text of an outcome class that fails does not parse, with the code of its class (44_record.md R131, R132). -/
theorem parseRec_of_recordFailure {t : List Byte} {c : Code} (h : recordFailure t = some c) :
    parseRec t = .error c := by
  rw [recordFailure] at h
  rw [parseRec, recordIdentifier]
  by_cases hshort : t.length < 34
  · rw [if_pos hshort] at h ⊢
    cases h
    rfl
  rw [if_neg hshort] at h ⊢
  by_cases hident : t.take 3 ≠ [0x24#8, 0x50#8, 0x24#8]
  · rw [if_pos hident] at h ⊢
    cases h
    rfl
  rw [if_neg hident] at h ⊢
  by_cases hexp : t.getD 3 0x00#8 ∉ legacyAlphabet
  · rw [if_pos hexp] at h
    cases h
    rw [(symVal_eq_none_iff _).mpr hexp]
  rw [if_neg hexp] at h
  obtain ⟨e, he⟩ := (mem_legacyAlphabet_iff _).mp (not_not.mp hexp)
  have hdigest : dec22 (t.drop 12) = .error c := by
    split_ifs at h with halphabet hlength
    · cases h
      exact dec22_of_length_ne halphabet (by rw [List.length_drop]; omega)
    · cases h
      exact dec22_of_outside_alphabet (by simpa using halphabet)
  rw [← he, symVal_symbolOf, hdigest]

/-- A text of no outcome class that fails is a record text (44_record.md R131). -/
theorem exists_recordText_of_no_failure {t : List Byte} (h : recordFailure t = none) :
    ∃ e S vs, S.length = 8 ∧ vs.length = 22 ∧ t = recordText e S vs := by
  unfold recordFailure at h
  split_ifs at h with _ hident hexp halphabet hlength
  have hlength := not_not.mp hlength
  obtain ⟨e, he⟩ := (mem_legacyAlphabet_iff _).mp hexp
  obtain ⟨vs, hvs⟩ := exists_values halphabet
  have hcount := congrArg List.length hvs
  rw [List.length_map, List.length_drop, hlength] at hcount
  refine ⟨e, (t.drop 4).take 8, vs, by simp [hlength], hcount, (text_eq_parts (t := t) (by omega)).trans ?_⟩
  rw [recordText, not_not.mp hident, he, hvs]
  rfl

/-- So it parses, to the fields it is the text of (44_record.md R128). -/
theorem exists_record_of_no_failure {t : List Byte} (h : recordFailure t = none) :
    ∃ e S vs D, S.length = 8 ∧ vs.length = 22 ∧ t = recordText e S vs ∧ digestOfValues vs D
      ∧ parseRec t
          = .ok { exp := e, salt := leVec 64 S, digest := D, nonCanon := decide (4 ≤ (vs.getD 21 0#6).toNat) } := by
  obtain ⟨e, S, vs, hS, hvs, rfl⟩ := exists_recordText_of_no_failure h
  have hD : digestOfValues vs (BitVec.ofNat 128 (fieldValue vs)) := (digestOfValues_iff vs _).mpr rfl
  exact ⟨e, S, vs, _, hS, hvs, rfl, hD, parseRec_recordText hS hvs hD e⟩

/-! GENERATE's `finish`, and FORMAT. -/

/-- Settles O42: with ITER 0 the chain step is `finish`. -/
theorem generateFinish : Obligations.GenerateFinish := by
  unfold Obligations.GenerateFinish
  intro s hp hz
  exact ⟨finishGenerate s, HashFinish.generate.exec_finish hp hz, finishGenerate_eq s, finishGenerate_digest s,
    finishGenerate_text s, fun a => finishGenerate_byteAt s⟩

/-- Settles O46: the serialized record, stored as a text. -/
theorem formatResult : Obligations.FormatResult := by
  unfold Obligations.FormatResult
  refine ⟨decode_encode .format, fun s D hD =>
    ⟨complete .none (s.putText (formatRec s.exp s.salt D)), ?_, ?_, ?_, fun a ha => ?_⟩⟩
  · simp only [exec, execFormat, digest_eq_of_bytes hD]
  · rw [complete_putText_eq (formatRec_length _ _ _)]
  · have hself := bytesAt_putText_self s (formatRec s.exp s.salt D)
    rw [formatRec_length] at hself
    rw [complete_bytesAt, hself, formatRec_eq, leBytes_salt]
  · rw [complete_byteAt, byteAt_putText, formatRec_length, if_neg (by omega)]

/-! PARSE. -/

/-- The state after PARSE of a record: its fields in EXP, SALT, DIGEST and NONCANON (44_record.md R133). -/
def State.withRecord (r : Record) (s : State) : State :=
  complete .none { (s.putSalt r.salt).putDigest r.digest with exp := r.exp, noncanon := r.nonCanon }

theorem withRecord_eq (r : Record) (s : State) :
    s.withRecord r =
      { s with
        mem := (s.withRecord r).mem
        exp := r.exp
        noncanon := r.nonCanon
        errcode := .none
        phase := .idle
        done := true } := by
  rw [State.withRecord, State.putDigest, State.putSalt]
  generalize leBytes 8 r.salt = salt, leBytes 16 r.digest = digest
  rfl

theorem withRecord_phase (r : Record) (s : State) : (s.withRecord r).phase = .idle := by rw [withRecord_eq]

theorem withRecord_done (r : Record) (s : State) : (s.withRecord r).done = true := by rw [withRecord_eq]

theorem withRecord_errcode (r : Record) (s : State) : (s.withRecord r).errcode = .none := by rw [withRecord_eq]

theorem withRecord_noncanon (r : Record) (s : State) : (s.withRecord r).noncanon = r.nonCanon := by
  rw [withRecord_eq]

theorem withRecord_exp (r : Record) (s : State) : (s.withRecord r).exp = r.exp := by rw [withRecord_eq]

/-- PARSE of a record writes the buffers by its two stores. -/
theorem withRecord_mem (r : Record) (s : State) :
    (s.withRecord r).mem = ((s.putSalt r.salt).putDigest r.digest).mem := by
  rw [State.withRecord, complete_mem]

theorem withRecord_epoch (r : Record) (s : State) :
    (s.withRecord r).epoch = ((s.putSalt r.salt).putDigest r.digest).epoch := by
  rw [State.withRecord, complete_epoch]

theorem withRecord_bytesAt_eq (r : Record) (s : State) (a n : Nat) :
    (s.withRecord r).bytesAt a n = ((s.putSalt r.salt).putDigest r.digest).bytesAt a n :=
  bytesAt_congr (withRecord_mem r s) (withRecord_epoch r s) a n

theorem withRecord_salt (r : Record) (s : State) : (s.withRecord r).bytesAt 0x040 8 = leBytes 8 r.salt := by
  rw [withRecord_bytesAt_eq, State.putDigest, bytesAt_putBytes_disjoint _ _ _ _ _ (.inl (by decide)),
    bytesAt_putSalt_self]

theorem withRecord_digest (r : Record) (s : State) : (s.withRecord r).bytesAt 0x050 16 = leBytes 16 r.digest := by
  rw [withRecord_bytesAt_eq, bytesAt_putDigest_self]

theorem withRecord_byteAt (r : Record) (s : State) {a : Nat}
    (h : a < 0x040 ∨ (0x040 + 8 ≤ a ∧ a < 0x050) ∨ 0x050 + 16 ≤ a) : (s.withRecord r).byteAt a = s.byteAt a := by
  rw [byteAt_congr (withRecord_mem r s) (withRecord_epoch r s), byteAt_putDigest, if_neg (by omega),
    byteAt_putSalt, if_neg (by omega)]

theorem not_textTooLong {s : State} (h : s.textlen.toNat ≤ s.params.textBufLen) : ¬s.textTooLong = true := by
  rw [textTooLong_iff]
  omega

theorem not_passwordTooLong {s : State} (h : s.pwlen.toNat ≤ s.params.pwBufLen) : ¬s.passwordTooLong = true := by
  rw [passwordTooLong_iff]
  omega

/-- PARSE of a text that parses (44_record.md R133). -/
theorem exec_parse_of_record {s : State} {r : Record} (hfits : s.textlen.toNat ≤ s.params.textBufLen)
    (hr : parseRec s.text = .ok r) : exec .parse s = .next (s.withRecord r) := by
  simp only [exec, execParse, if_neg (not_textTooLong hfits), hr, State.withRecord]

/-- Settles O45: the length check, then the outcome classes of TEXT. -/
theorem parseResult : Obligations.ParseResult := by
  unfold Obligations.ParseResult
  refine ⟨decode_encode .parse, fun s =>
    ⟨fun hlong => ?tooLong, fun hfits => ⟨fun c hc => ?failure, fun hnone => ?record⟩⟩⟩
  case tooLong => simp only [exec, execParse, if_pos ((textTooLong_iff s).mpr hlong), complete_eq]
  case failure =>
    have herror : parseRec s.text = .error c := parseRec_of_recordFailure hc
    simp only [exec, execParse, if_neg (not_textTooLong hfits), herror, complete_eq]
  case record =>
    obtain ⟨e, S, vs, D, hS, hvs, htext, hD, hparsed⟩ := exists_record_of_no_failure hnone
    exact ⟨e, S, vs, D, _, hS, hvs, htext, hD, exec_parse_of_record hfits hparsed, withRecord_eq _ s,
      (withRecord_salt _ s).trans (leBytes_leVec_salt hS), withRecord_digest _ s, fun a => withRecord_byteAt _ s⟩

/-! VERIFY. -/

/-- The one-hot load value as a number (42_checksum.md R104). -/
theorem iterLoad_eq_ofNat (e : Sextet) : iterLoad e = BitVec.ofNat 64 (2 ^ e.toNat) := by
  rw [← iterLoad_toNat, BitVec.ofNat_toNat, BitVec.setWidth_eq]

/-- Settles O43: the length checks, then the outcome classes of TEXT. -/
theorem verifySetup : Obligations.VerifySetup := by
  unfold Obligations.VerifySetup
  intro s hp
  rw [execVerify_of_not_chain (by simp [hp])]
  refine ⟨fun hlong => ?tooLong, fun htextFits hpwFits => ⟨fun c hc => ?failure, fun hnone => ?record⟩⟩
  case tooLong =>
    rw [← textTooLong_iff, ← passwordTooLong_iff, ← Bool.or_eq_true] at hlong
    rw [setupVerify, if_pos hlong, complete_eq]
  case failure =>
    have herror : parseRec s.text = .error c := parseRec_of_recordFailure hc
    have hfits : ¬(s.textTooLong || s.passwordTooLong) = true := by
      simp [not_textTooLong htextFits, not_passwordTooLong hpwFits]
    rw [setupVerify, if_neg hfits, herror]
    rfl
  case record =>
    obtain ⟨e, S, vs, D, hS, hvs, htext, hD, hparsed⟩ := exists_record_of_no_failure hnone
    refine ⟨e, S, vs, D, hS, hvs, htext, hD, ?_⟩
    rw [setupVerify_of_record htextFits hpwFits hparsed, hashStart, leBytes_leVec_salt hS, iterLoad_eq_ofNat]
    rfl

/-- Values with the same bytes are equal. -/
theorem eq_of_byteOf_eq {w n : Nat} {x y : BitVec w} (hw : w ≤ 8 * n) (h : ∀ j < n, byteOf x j = byteOf y j) :
    x = y := by
  have hbytes : leBytes n x = leBytes n y := List.map_congr_left fun j hj => h j (List.mem_range.mp hj)
  rw [← leVec_leBytes x hw, hbytes, leVec_leBytes y hw]

/-- Settles O44: `finish` compares H and PD, which are equal when all their bytes are. -/
theorem verifyFinish : Obligations.VerifyFinish := by
  unfold Obligations.VerifyFinish
  intro s hp hz
  rw [HashFinish.verify.exec_finish hp hz, finishVerify_eq]
  refine ⟨fun hagree => ?_, fun ⟨j, _, hdiffer⟩ => ?_⟩
  · have heq : s.h = s.pd := eq_of_byteOf_eq (by decide) hagree
    simp only [heq, decide_true, if_true]
  · have hne : s.h ≠ s.pd := fun heq => hdiffer (by rw [heq])
    simp only [hne, decide_false, if_false]

/-- t differs from s at most in what VERIFY may write (44_record.md R136, R141). -/
def VerifyFrame (s t : State) : Prop :=
  t = { s with
    verMatch := t.verMatch
    noncanon := t.noncanon
    errcode := t.errcode
    done := t.done
    iter := t.iter
    phase := t.phase
    h := t.h
    pe := t.pe
    ps := t.ps
    pd := t.pd
    pnc := t.pnc }

theorem setupVerify_frame (s : State) : VerifyFrame s (setupVerify s) := by
  unfold setupVerify
  split
  · rfl
  · split <;> rfl

theorem chainStep_finishVerify_frame (s : State) : VerifyFrame s (chainStep finishVerify s) := by
  obtain ⟨-, heq⟩ | ⟨-, heq⟩ := chainStep_cases finishVerify s
  · rw [heq]
    rfl
  · rw [heq, finishVerify_eq]
    rfl

theorem exec_verify_frame (s : State) : ∃ t, exec .verify s = .next t ∧ VerifyFrame s t := by
  by_cases hp : s.phase = .chain
  · exact ⟨_, HashFinish.verify.exec_of_chain hp, chainStep_finishVerify_frame s⟩
  · exact ⟨_, execVerify_of_not_chain hp, setupVerify_frame s⟩

/-- Settles O58, by the frame of VERIFY in phase CHAIN and in the others. -/
theorem verifyLeavesRecordFields : Obligations.VerifyLeavesRecordFields := by
  unfold Obligations.VerifyLeavesRecordFields
  intro s
  obtain ⟨t, hexec, hframe⟩ := exec_verify_frame s
  exact ⟨t, hexec, hframe, (congrArg State.exp hframe :), (congrArg State.textlen hframe :),
    (congrArg State.pwlen hframe :), byteAt_congr (congrArg State.mem hframe :) (congrArg State.epoch hframe :)⟩

end Sys2Proof.Machine
end

section
/-! PROOF of O50: GENERATE, and then PARSE or VERIFY of its text. The record GENERATE stores parses to the fields it was
made of (44_record.md R138), and VERIFY computes from them, and from the same password, the digest it holds (R139). -/

namespace Sys2Proof.Machine

/-! What GENERATE leaves for the next command. -/

theorem finishGenerate_inputs (s : State) : (finishGenerate s).inputs = s.inputs := by rw [finishGenerate_eq]

theorem finishGenerate_inReset (s : State) : (finishGenerate s).inReset = s.inReset := by rw [finishGenerate_eq]

theorem finishGenerate_params (s : State) : (finishGenerate s).params = s.params := by rw [finishGenerate_eq]

theorem finishGenerate_textlen (s : State) : (finishGenerate s).textlen = 34#8 := by rw [finishGenerate_eq]

theorem finishGenerate_pwlen (s : State) : (finishGenerate s).pwlen = s.pwlen := by rw [finishGenerate_eq]

/-- PW is above the bytes GENERATE stores (44_record.md R135). -/
theorem finishGenerate_password (s : State) : (finishGenerate s).password = s.password := by
  rw [State.password, State.password, finishGenerate_pwlen]
  refine List.map_congr_left fun k _ => finishGenerate_byteAt s (.inr (.inr ?_))
  simp only [pwBase]
  omega

/-- The text GENERATE leaves parses to the fields it was made of (44_record.md R138). -/
theorem parseRec_finishGenerate (s : State) :
    parseRec (finishGenerate s).text = .ok { exp := s.exp, salt := s.salt, digest := s.h, nonCanon := false } := by
  have htext : (finishGenerate s).text = (finishGenerate s).bytesAt 0x080 34 := by
    rw [State.text, finishGenerate_textlen]
    rfl
  rw [htext, finishGenerate_text, ← leBytes_salt, ← formatRec_eq, parseRec_formatRec]

/-! A PARSE or VERIFY word written to an idle block that holds the text of a record. -/

section

variable {s : State} {a : Nat} {r : Record}

/-- The state right after the CMD write of a command's word (40_command_protocol.md R73). -/
def State.accepted (i : Instr) (s : State) : State :=
  { accept (encode i) { s with inputs := [] } with port := .ack }

theorem step_cmdWrite_accepted (hr : s.inReset = false) (hp : s.phase = .idle) (ha : windowOffset a = 0x00C)
    (i : Instr) : step { s with inputs := [busWrite a (encode i)] } = .next (s.accepted i) :=
  step_cmdWrite_of_idle (s := { s with inputs := [busWrite a (encode i)] }) hr hp ha rfl

/-- Left alone, the accepted command takes its SETUP micro-step (40_command_protocol.md R76; log 1). -/
theorem step_accepted (hr : s.inReset = false) (i : Instr) : step (s.accepted i) = exec i (s.accepted i) := by
  obtain ⟨halone, -⟩ := stepRunsDecodedCommand (s.accepted i) i hr (decode_encode i) (.inl rfl)
  exact halone rfl

theorem run_parse_of_record (hr : s.inReset = false) (hp : s.phase = .idle) (ha : windowOffset a = 0x00C)
    (hfits : s.textlen.toNat ≤ s.params.textBufLen) (hrecord : parseRec s.text = .ok r) :
    run 2 { s with inputs := [busWrite a (encode .parse)] } = .next ((s.accepted .parse).withRecord r) :=
  run_two (step_cmdWrite_accepted hr hp ha .parse)
    ((step_accepted hr .parse).trans (exec_parse_of_record (s := s.accepted .parse) hfits hrecord))

theorem run_verify_of_record (hr : s.inReset = false) (hp : s.phase = .idle) (ha : windowOffset a = 0x00C)
    (htext : s.textlen.toNat ≤ s.params.textBufLen) (hpw : s.pwlen.toNat ≤ s.params.pwBufLen)
    (hrecord : parseRec s.text = .ok r) :
    run (2 ^ r.exp.toNat + 3) { s with inputs := [busWrite a (encode .verify)] }
      = .next (finishVerify { s.accepted .verify with
          pe := r.exp
          ps := r.salt
          pd := r.digest
          pnc := r.nonCanon
          iter := 0#64
          h := checksum s.password r.salt r.exp
          phase := .chain }) := by
  have hstart := step_accepted hr .verify
  rw [execVerify_of_not_chain (s := s.accepted .verify) nofun,
    setupVerify_of_record (s := s.accepted .verify) htext hpw hrecord] at hstart
  obtain ⟨-, hrun⟩ := HashFinish.verify.run_command rfl hstart rfl hr rfl rfl
  exact (run_succ _ (step_cmdWrite_accepted hr hp ha .verify)).trans hrun

end

/-- VERIFY of a matching digest (44_record.md R136). -/
theorem finishVerify_of_match {s : State} (h : s.h = s.pd) :
    finishVerify s = complete .none { s with noncanon := s.pnc, verMatch := true } := if_pos h

/-- Settles O50: the run of GENERATE, and of the command written after it, on the record in TEXT. -/
theorem generateThenParseAndVerify : Obligations.GenerateThenParseAndVerify := by
  unfold Obligations.GenerateThenParseAndVerify
  intro s a hlegal hr hin hp hopl hfits ha
  have hstart := step_alone_setup (.inr rfl) hr hin hp hopl hfits
  obtain ⟨-, hrun⟩ := HashFinish.generate.run_command (busy_of_phase hp nofun) hstart rfl hr hin hopl
  refine ⟨_, hrun, ?_⟩
  generalize hu : { s with iter := 0#64, h := checksum s.password s.salt s.exp, phase := .chain } = u
  have hrecord := parseRec_finishGenerate u
  have hreset : (finishGenerate u).inReset = false := by rw [finishGenerate_inReset, ← hu, hr]
  have hidle : (finishGenerate u).phase = .idle := HashFinish.generate.phase_eq_idle u
  have htext : (finishGenerate u).textlen.toNat ≤ (finishGenerate u).params.textBufLen := by
    obtain ⟨-, -, htext, -⟩ := hlegal
    rw [finishGenerate_textlen, finishGenerate_params, ← hu]
    exact (by decide : (34#8).toNat ≤ 36).trans htext
  have hpw : (finishGenerate u).pwlen.toNat ≤ (finishGenerate u).params.pwBufLen := by
    rw [finishGenerate_pwlen, finishGenerate_params, ← hu]
    exact hfits
  have hexp : u.exp = s.exp := by rw [← hu]
  have hsum : u.h = checksum u.password u.salt u.exp := by rw [← hu]; rfl
  constructor
  case left =>
    refine ⟨_, run_parse_of_record hreset hidle ha htext hrecord, withRecord_phase _ _, withRecord_done _ _,
      withRecord_errcode _ _, withRecord_noncanon _ _, (withRecord_exp _ _).trans hexp, ?_, ?_⟩
    · rw [withRecord_salt, leBytes_salt, ← hu]
      rfl
    · rw [withRecord_digest, ← hu]
  case right =>
    have hverify := run_verify_of_record hreset hidle ha htext hpw hrecord
    rw [finishGenerate_password, finishVerify_of_match hsum.symm, hexp] at hverify
    exact ⟨_, hverify, rfl, rfl, rfl, rfl, rfl⟩

end Sys2Proof.Machine
end

section
/-! PROOF of O59: nothing but the host program can stop the machine. The sequencer has one fault, a phase CHAIN without a
hash command in OPL, which the invariant excludes (60_exceptions.md R143; log 8), and a host without a program has no
line to stop at (log 9). -/

namespace Sys2Proof.Machine

section

variable {s : State}

/-- A hash command's word decodes to a hash command (30_encoding.md R63). -/
theorem decode_of_holdsHashCommand (h : holdsHashCommand s) :
    ∃ i, (i = .chksum ∨ i = .generate ∨ i = .verify) ∧ decode s.opl = .ok i := by
  obtain hopl | hopl | hopl := h
  all_goals rw [hopl]
  · exact ⟨.chksum, .inl rfl, decode_encode _⟩
  · exact ⟨.generate, .inr (.inl rfl), decode_encode _⟩
  · exact ⟨.verify, .inr (.inr rfl), decode_encode _⟩

/-- Where phase CHAIN belongs to a hash command, the sequencer's turn answers a next state (40_command_protocol.md
R75). -/
theorem sequencerTurn_answers_next (h : s.phase = .chain → holdsHashCommand s) : ∃ t, sequencerTurn s = .next t := by
  obtain ⟨-, heq⟩ | ⟨-, -, -, heq⟩ | ⟨-, -, i, -, heq⟩ | ⟨-, -, i, -, -, heq⟩ | ⟨hr, hp, -⟩ := sequencerTurn_cases s
  · exact ⟨_, heq⟩
  · exact ⟨_, heq⟩
  · rw [heq]
    exact exec_answers_next i s
  · rw [heq]
    exact exec_answers_next i s
  · obtain ⟨i, hhash, hd⟩ := decode_of_holdsHashCommand (h hp)
    rw [sequencerTurn_of_decode hr hd (.inr ⟨hp, hhash⟩)]
    exact exec_answers_next i s

/-- The turn of a host without a program changes nothing (40_command_protocol.md R84). -/
theorem hostTurn_of_no_program (h : s.host.prog = []) : hostTurn s = .next s := by
  obtain ⟨-, heq⟩ | ⟨line, hline, -⟩ := hostTurn_cases s
  · exact heq
  · rw [h] at hline
    cases hline

theorem takeTurn_answers_next (h : s.phase = .chain → holdsHashCommand s) (hprog : s.host.prog = []) (a : Turn) :
    ∃ t, takeTurn a s = .next t := by
  cases a with
  | bus | assertReset | releaseReset => exact ⟨_, rfl⟩
  | host => exact ⟨s, hostTurn_of_no_program hprog⟩
  | sequencer => exact sequencerTurn_answers_next h

end

/-- Settles O59: of the invariant only the hash command of phase CHAIN is needed, whichever agent moves. -/
theorem progressWithoutHostProgram : Obligations.ProgressWithoutHostProgram := by
  unfold Obligations.ProgressWithoutHostProgram
  intro s h hprog
  obtain ⟨a, rest, -, heq⟩ | ⟨-, -, -, heq⟩ | ⟨-, -, heq⟩ := step_cases s
  all_goals rw [heq]
  · exact takeTurn_answers_next (s := { s with inputs := rest }) h.chainHash hprog a
  · exact sequencerTurn_answers_next h.chainHash
  · exact ⟨s, hostTurn_of_no_program hprog⟩

end Sys2Proof.Machine
end

section
/-! PROOF of O51: a busy block left alone completes. Each micro-step completes the command or leaves it in phase CHAIN,
where the invariant bounds ITER, so that at most 2^63 chained applications and the `finish` are still to come
(42_checksum.md R104, R107, 70_reset_and_hazards.md R172). -/

namespace Sys2Proof.Machine

/-- A micro-step that does not leave its command in phase CHAIN completes it (40_command_protocol.md R77). -/
theorem MicroStepEnd.chain_or_completed {i : Instr} {s t : State} (h : MicroStepEnd i s t) :
    t.phase = .chain ∨ (t.phase = .idle ∧ t.done = true) := by
  cases h with
  | running hp => exact .inl hp
  | success | error | mismatch => exact .inr ⟨rfl, rfl⟩

/-- Every `finish` sets DONE (40_command_protocol.md R77). -/
theorem HashFinish.done_eq_true {i : Instr} {finish : State → State} (hf : HashFinish i finish) (s : State) :
    (finish s).done = true := by
  cases hf with
  | chksum | generate => rfl
  | verify => rw [finishVerify_eq]

section

variable {s : State}

/-- The same of the sequencer's turn of a busy block: an illegal word completes at once (40_command_protocol.md R76). -/
theorem sequencerTurn_of_busy (hchain : s.phase = .chain → holdsHashCommand s) (hr : s.inReset = false)
    (hb : s.busy = true) :
    ∃ t, sequencerTurn s = .next t ∧ (t.phase = .chain ∨ (t.phase = .idle ∧ t.done = true)) := by
  have hcommand {i : Instr} (heq : sequencerTurn s = exec i s) :
      ∃ t, sequencerTurn s = .next t ∧ (t.phase = .chain ∨ (t.phase = .idle ∧ t.done = true)) := by
    obtain ⟨t, hexec, hend⟩ := exec_microStepEnd i s
    exact ⟨t, heq.trans hexec, hend.chain_or_completed⟩
  obtain ⟨hoff, -⟩ | ⟨-, -, -, heq⟩ | ⟨-, -, i, -, heq⟩ | ⟨-, -, i, -, -, heq⟩ | ⟨-, -, hfault⟩ :=
    sequencerTurn_cases s
  · simp [hr, (busy_iff s).mp hb] at hoff
  · exact ⟨_, heq, .inr ⟨rfl, rfl⟩⟩
  · exact hcommand heq
  · exact hcommand heq
  · obtain ⟨t, hnext⟩ := sequencerTurn_answers_next hchain
    cases hfault.symm.trans hnext

/-- Left alone in phase CHAIN, the command completes with its `finish` after ITER applications
(42_checksum.md R107). -/
theorem run_of_chain_completes (h : s.Inv) (hr : s.inReset = false) (hi : s.inputs = []) (hp : s.phase = .chain) :
    ∃ t, run (s.iter.toNat + 1) s = .next t ∧ t.phase = .idle ∧ t.done = true := by
  obtain ⟨i, hhash, hd⟩ := decode_of_holdsHashCommand (h.chainHash hp)
  obtain ⟨finish, hf⟩ := exists_hashFinish hhash
  exact ⟨_, hf.run_chain_finish hr hi hp (word_of_decode hd), hf.phase_eq_idle _, hf.done_eq_true _⟩

end

/-- Settles O51: one micro-step, and the rest of the chain if it leaves one. -/
theorem everyCommandEnds : Obligations.EveryCommandEnds := by
  unfold Obligations.EveryCommandEnds
  intro s h hr hi hb
  obtain ⟨t, hturn, hend⟩ := sequencerTurn_of_busy h.chainHash hr hb
  have hstep : step s = .next t := (step_alone hi hb hr).trans hturn
  obtain hchain | hcompleted := hend
  · obtain ⟨hreset, hinputs⟩ := sequencerTurn_frame hturn
    have hinv : t.Inv := stepKeepsInv s t h hstep
    obtain ⟨u, hrun, hcompleted⟩ := run_of_chain_completes hinv (hreset.trans hr) (hinputs.trans hi) hchain
    have hiter : t.iter.toNat ≤ 2 ^ 63 := hinv.chainIter hchain
    exact ⟨t.iter.toNat + 1 + 1, u, by omega, (run_succ _ hstep).trans hrun, hcompleted⟩
  · exact ⟨1, t, by decide, run_one hstep, hcompleted⟩

end Sys2Proof.Machine
end

section
/-! PROOF of O20, O21, O22: the block in reset, a reset during a command, and the first command after one
(70_reset_and_hazards.md R160 to R162). The first commands find the operands of a reset, on which the statements about
each command are used. -/

namespace Sys2Proof.Machine

/-! The reset line. -/

/-- Settles O20: in reset the bus port is closed and no micro-step is enabled. -/
theorem duringReset : Obligations.DuringReset := by
  unfold Obligations.DuringReset
  intro s rest hr
  refine ⟨?irq, fun x hi => ?bus, fun hi => ?sequencer⟩
  case irq => rw [irq_eq, if_pos hr]
  case bus => rw [step_bus hi, transact_inReset (s := { s with inputs := rest }) x hr]
  case sequencer => rw [step_sequencer hi, sequencerTurn_of_disabled (s := { s with inputs := rest }) (.inl hr)]

/-- The falling edge of `rst_n` (70_reset_and_hazards.md R160). -/
theorem step_assertReset {s : State} {rest : List Turn} (hi : s.inputs = .assertReset :: rest) :
    step s = .next (assertReset { s with inputs := rest }) := by
  unfold step nextTurn
  rw [hi]
  rfl

/-- Settles O21: the release gives the reset values, whatever command the assertion found running. -/
theorem resetEndsCommand : Obligations.ResetEndsCommand := by
  unfold Obligations.ResetEndsCommand
  intro s _ _ hi
  have hassert := step_assertReset hi
  exact ⟨hassert, _, run_two hassert (step_releaseReset rfl rfl), rfl, releaseReset_statusWord _, rfl, rfl,
    releaseReset_byteAt _⟩

/-! The first command after a reset. -/

section

variable (p : Params) (n : Nat)

/-- The state after reset number n with the word of a command just accepted (40_command_protocol.md R73; log 6). -/
def firstCommand (i : Instr) : State := placeCommand (encode i) (State.resetWith p n)

theorem withFetchWord_eq_firstCommand (i : Instr) (w : Nat) (h : (encode i).toNat = w) :
    (State.resetWith p n).withFetchWord 32 w = firstCommand p n i := by
  rw [State.withFetchWord, ← h, tableWord_toNat, firstCommand]

/-- Left alone, it takes its SETUP micro-step (40_command_protocol.md R76; log 1). -/
theorem step_firstCommand (i : Instr) : step (firstCommand p n i) = exec i (firstCommand p n i) := by
  obtain ⟨halone, -⟩ := stepRunsDecodedCommand (firstCommand p n i) i rfl (decode_encode i) (.inl rfl)
  exact halone rfl

/-- STATUS after its completion does not depend on the parameters and the reset number, so one choice of them tells
it (10_state.md R19, R42). -/
theorem firstCommand_statusWord (i : Instr) (c : Code) :
    (complete c (firstCommand p n i)).statusWord = (complete c (firstCommand Params.spec 0 i)).statusWord := rfl

/-- A command that fails at SETUP ends in its first step, and STATUS holds its opcode and its code
(40_command_protocol.md R76, R77). -/
theorem firstCommand_fails {i : Instr} {c : Code} {w : Word}
    (hexec : exec i (firstCommand p n i) = .next (complete c (firstCommand p n i)))
    (hw : (complete c (firstCommand Params.spec 0 i)).statusWord = w) :
    ∃ t, step (firstCommand p n i) = .next t ∧ t.statusWord = w :=
  ⟨_, (step_firstCommand p n i).trans hexec, (firstCommand_statusWord p n i c).trans hw⟩

/-- ARG is 0, and the byte 0x00 is outside the alphabet (41_codec.md R95). -/
theorem exec_firstCommand_sym2val :
    exec .sym2val (firstCommand p n .sym2val) = .next (complete .invalidCharacter (firstCommand p n .sym2val)) := by
  obtain ⟨-, hresult⟩ := sym2valResult
  obtain ⟨-, hsymbol⟩ := hresult (firstCommand p n .sym2val)
  obtain ⟨hinvalid, -⟩ := hsymbol 0x00#8 rfl
  exact hinvalid (by decide)

/-- TEXTLEN is 0, and the empty text is no digest field (41_codec.md R100). -/
theorem exec_firstCommand_decdig :
    exec .decdig (firstCommand p n .decdig) = .next (complete .malformedDigest (firstCommand p n .decdig)) := by
  obtain ⟨-, hresult⟩ := decdigResult
  obtain ⟨-, hfits⟩ := hresult (firstCommand p n .decdig)
  obtain ⟨-, hmalformed, -⟩ := hfits (Nat.zero_le _)
  exact hmalformed nofun (by decide : 0#8 ≠ 22#8)

/-- The empty text is shorter than any record (44_record.md R131). -/
theorem exec_firstCommand_parse :
    exec .parse (firstCommand p n .parse) = .next (complete .oldFormat (firstCommand p n .parse)) := by
  obtain ⟨-, hresult⟩ := parseResult
  obtain ⟨-, hfits⟩ := hresult (firstCommand p n .parse)
  obtain ⟨hfailure, -⟩ := hfits (Nat.zero_le _)
  exact hfailure .oldFormat rfl

theorem exec_firstCommand_verify :
    exec .verify (firstCommand p n .verify) = .next (complete .oldFormat (firstCommand p n .verify)) := by
  obtain ⟨-, hfits⟩ := verifySetup (firstCommand p n .verify) rfl
  obtain ⟨hfailure, -⟩ := hfits (Nat.zero_le _) (Nat.zero_le _)
  exact hfailure .oldFormat rfl

/-- The checksum of the empty password with exponent 0 (42_checksum.md R101). -/
theorem checksum_empty_zero (S : BitVec 64) : checksum [] S 0#6 = md5 (leBytes 16 (md5 (leBytes 8 S))) := by
  simp [checksum, chainMd5]

/-- The digest of a first hash command: of no password, with exponent 0 and the salt of the reset parameter
(95_test_vectors.md V-L2-RST; log 3). -/
def firstDigest : BitVec 128 :=
  md5 (leBytes 16 (md5 ((List.range 8).map (fun k => Config.resetByte n (0x040 + k)))))

/-- PWLEN and EXP are 0, and SALT holds the reset parameter (10_state.md R42; log 3). -/
theorem firstCommand_checksum (i : Instr) :
    checksum (firstCommand p n i).password (firstCommand p n i).salt (firstCommand p n i).exp = firstDigest n := by
  have hpassword : (firstCommand p n i).password = [] := rfl
  have hexp : (firstCommand p n i).exp = 0#6 := rfl
  have hsalt : (firstCommand p n i).bytesAt 0x040 8 =
      (List.range 8).map (fun k => Config.resetByte n (0x040 + k)) := rfl
  rw [hpassword, hexp, checksum_empty_zero, leBytes_salt, hsalt, firstDigest]

/-- With EXP 0 a hash command takes three steps (70_reset_and_hazards.md R168). -/
theorem firstCommand_stepCount (i : Instr) : 2 ^ (firstCommand p n i).exp.toNat + 2 = 3 := rfl

theorem run_firstCommand_chksum :
    ∃ t, run 3 (firstCommand p n .chksum) = .next t ∧ t.statusWord = 0x00007002#32
      ∧ t.bytesAt 0x050 16 = leBytes 16 (firstDigest n) := by
  obtain ⟨-, t, hrun, ht, hdigest, -⟩ := chksumRun (firstCommand p n .chksum) rfl rfl rfl rfl (Nat.zero_le _)
  rw [firstCommand_stepCount] at hrun
  rw [firstCommand_checksum] at ht hdigest
  have hstatus : t.statusWord = (complete .none (firstCommand p n .chksum)).statusWord := by rw [ht]; rfl
  exact ⟨t, hrun, hstatus.trans ((firstCommand_statusWord p n _ _).trans (by decide)), hdigest⟩

theorem run_firstCommand_generate :
    ∃ t, run 3 (firstCommand p n .generate) = .next t ∧ t.statusWord = 0x0000A002#32 ∧ t.textlen = 34#8
      ∧ t.bytesAt 0x050 16 = leBytes 16 (firstDigest n) := by
  obtain ⟨-, t, hrun, ht, hdigest, -⟩ := generateRun (firstCommand p n .generate) rfl rfl rfl rfl (Nat.zero_le _)
  rw [firstCommand_stepCount] at hrun
  rw [firstCommand_checksum] at ht hdigest
  have hstatus : t.statusWord = (complete .none (firstCommand p n .generate)).statusWord := by rw [ht]; rfl
  have hlength : t.textlen = 34#8 := by rw [ht]
  exact ⟨t, hrun, hstatus.trans ((firstCommand_statusWord p n _ _).trans (by decide)), hlength, hdigest⟩

end

/-- Settles O22: the four commands that fail at SETUP, and the runs of the two that hash. -/
theorem firstCommandsAfterReset : Obligations.FirstCommandsAfterReset := by
  unfold Obligations.FirstCommandsAfterReset
  intro p n _
  rw [withFetchWord_eq_firstCommand p n .sym2val 0x1 rfl,
    withFetchWord_eq_firstCommand p n .decdig 0x6 rfl,
    withFetchWord_eq_firstCommand p n .parse 0x8 rfl,
    withFetchWord_eq_firstCommand p n .verify 0xB rfl,
    withFetchWord_eq_firstCommand p n .chksum 0x7 rfl,
    withFetchWord_eq_firstCommand p n .generate 0xA rfl]
  exact ⟨firstCommand_fails p n (exec_firstCommand_sym2val p n) (by decide),
    firstCommand_fails p n (exec_firstCommand_decdig p n) (by decide),
    firstCommand_fails p n (exec_firstCommand_parse p n) (by decide),
    firstCommand_fails p n (exec_firstCommand_verify p n) (by decide),
    run_firstCommand_chksum p n, run_firstCommand_generate p n⟩

end Sys2Proof.Machine
end
